-- ==== Sys2Proof/Word.lean ====
section
/-! DEFINITION. The word types of the GF4256 and the fixed-size tables (four feeds, 256 slots) the model keeps. -/

namespace Sys2Proof

/-- One byte of a frame. -/
abbrev Byte := BitVec 8

/-- A publisher stream tag (01, section 1.2.2). -/
abbrev Tag := BitVec 16

/-- A sequence number: 16 bits, wrapping (R1). -/
abbrev Seq := BitVec 16

/-- Part time in microseconds: 32 bits, wrapping (R2). -/
abbrev Time := BitVec 32

/-- A moment of the part's run: microseconds since power-on reset, counted without a wrap. Timers keep their expiries as
moments, since no timer depends on the wrap of part time (R2; log 3). -/
abbrev Moment := Nat

/-- A counter: 32 bits, saturating (00_scope, Counters). -/
abbrev Counter := BitVec 32

/-- A session token (R122). -/
abbrev Token := BitVec 16

/-- A feed link, F0 to F3. -/
abbrev Feed := Fin 4

/-- A position in the stream table, 0 to 255 (01, section 1.1). -/
abbrev Slot := Fin 256

/-- The entry of a fixed-size table at an index. -/
def rd {α : Type} {n : Nat} (v : Vector α n) (i : Fin n) : α := v[i.val]

/-- A fixed-size table with one entry replaced. -/
def wr {α : Type} {n : Nat} (v : Vector α n) (i : Fin n) (x : α) : Vector α n := v.set i.val x i.isLt

/-- The fixed-size table that holds `f i` at every index `i`. -/
def tab {α : Type} {n : Nat} (f : Fin n → α) : Vector α n := ⟨⟨(List.finRange n).map f⟩, by simp⟩

/-- The four feeds, in order. -/
def allFeeds : List Feed := List.finRange 4

/-- The 256 slots, in order. -/
def allSlots : List Slot := List.finRange 256

end Sys2Proof
end

