-- ==== Sys2Proof/Syntax.lean ====
section
/-! DEFINITION. The commands of the part: one constructor for each row of spec/opcode_table.json, in the table's order. -/

namespace Sys2Proof

/-- The events and operations the part takes, each one indivisible step (95_what_each_step_holds.md).
The commands of the consumer carry no operand here: the management engine takes the command at the
front of its inbox (R121), and its token, sequence, code and arguments are those received. -/
inductive Instr where
  /-- POR: power-on reset, by power-up or the reset input (R23). -/
  | por
  /-- FEED_FRAME_RECEIVED: the reception of a frame ends on a feed link (R98). -/
  | feedFrameReceived (feed : Feed) (bytes : List Byte)
  /-- FEED_LINK_DOWN: a feed port reports link-down (R85). -/
  | feedLinkDown (feed : Feed)
  /-- FEED_LINK_UP: a feed port reports link-up (R86). -/
  | feedLinkUp (feed : Feed)
  /-- WINDOW_EXPIRY: a monitor's window expires (R80). -/
  | windowExpiry (feed : Feed)
  /-- FEED_EVENT: the merge engine takes a feed event of a monitor (R67). -/
  | feedEvent (feed : Feed)
  /-- SELECTOR_REVIEW: the merge engine takes the next pending review (R68). -/
  | selectorReview
  /-- HOLD_OFF_EXPIRY: a stream's revert hold-off expires (R71). -/
  | holdOffExpiry (slot : Slot)
  /-- COPY_TAKE: the merge engine takes the oldest copy a port has offered (R24, R99). -/
  | copyTake (feed : Feed)
  /-- DUE_EXPIRY: a stream's due timer expires (R48). -/
  | dueExpiry (slot : Slot)
  /-- DELIVERY_FRAME_RECEIVED: the reception of a frame ends on the delivery link (R100). -/
  | deliveryFrameReceived (bytes : List Byte)
  /-- DELIVERY_LINK_DOWN: the delivery link goes down (R115). -/
  | deliveryLinkDown
  /-- DELIVERY_LINK_UP: the delivery link comes up (R117). -/
  | deliveryLinkUp
  /-- TRANSMISSION_START: the arbiter serves a queue (R113). -/
  | transmissionStart
  /-- TRANSMISSION_COMPLETE: the frame being sent has been sent (R114). -/
  | transmissionComplete
  /-- REPLY_WAIT_ADMIT: the front of the reply wait is admitted (R112). -/
  | replyWaitAdmit
  /-- OPEN_SESSION (R125). -/
  | openSession
  /-- CLOSE_SESSION (R126). -/
  | closeSession
  /-- STATUS (R133). -/
  | status
  /-- READ_STREAM (R134). -/
  | readStream
  /-- READ_FEED (R136). -/
  | readFeed
  /-- READ_NOTICES (R137). -/
  | readNotices
  /-- SET_FEED (R138). -/
  | setFeed
  /-- SET_NOTICES (R139). -/
  | setNotices
  /-- CLEAR_COUNTERS (R140). -/
  | clearCounters
  /-- RESTART_STREAM (R141). -/
  | restartStream
  /-- ACK_ALARMS (R142). -/
  | ackAlarms
  /-- RESET_PART with level RESTART, and RESET_PART with arguments that are no level (R143). -/
  | resetPartRestart
  /-- RESET_PART with level CLEAR (R144). -/
  | resetPartClear
  /-- STAGE_WRITE (R146). -/
  | stageWrite
  /-- STAGE_REMOVE (R147). -/
  | stageRemove
  /-- UNSTAGE (R147). -/
  | unstage
  /-- COMMIT (R149). -/
  | commit
  /-- A command whose code is not in the command table (R122). -/
  | unknownCommand
  /-- IDLE_EXPIRY: the session's idle timer expires (R128). -/
  | idleExpiry
  /-- PREPARE_COMPLETE: the standby bank is written and the swap requested (R151). -/
  | prepareComplete
  /-- SWAP: the merge engine takes the requested swap (R152). -/
  | swap
  /-- SYNC_COMPLETE: the sync after a swap ends (R155). -/
  | syncComplete
  /-- NOTICE_RAISE: the notice unit takes a raised notice (R159). -/
  | noticeRaise
  /-- NOTICE_MOVE: the front notice record moves into the control queue (R161). -/
  | noticeMove
  /-- REFILL_EXPIRY: the refill timer expires (R162). -/
  | refillExpiry
  deriving DecidableEq, Repr

end Sys2Proof
end

