-- ==== Sys2Proof/Decode.lean ====
section
/-! DEFINITION. The reader of table words. No row of spec/opcode_table.json gives bits (every row's "fields" is
empty), so no word spells a command. The bytes of link frames and command envelopes are read in Machine/Frames.lean
and Machine/Operands.lean. -/

namespace Sys2Proof

/-- The command that a word of `nbits` bits spells by the table's bits: none, because the table gives no row any. -/
def decodeTableWord (_nbits _w : Nat) : Option Instr := none

end Sys2Proof
end

