-- ==== Sys2Proof/Config.lean ====
section
/-! DEFINITION. The constants of the part. The manual leaves no result value open, so there is no free value here. -/

namespace Sys2Proof.Config

/-- Frame buffers of the pool (R107). -/
def poolSize : Nat := 512

/-- The hold reserve: buffers a hold claim may not take (R108). -/
def holdReserve : Nat := 16

/-- Free buffers at which the pressure flag is cleared (R110). -/
def pressureClear : Nat := 32

/-- Places of the control queue (R112). -/
def controlPlaces : Nat := 8

/-- Places of the control queue that notice frames may take (R112). -/
def noticePlaces : Nat := 6

/-- The greatest data run (R113). -/
def dataRunMax : Nat := 4

/-- Places of the command inbox (R120). -/
def inboxPlaces : Nat := 4

/-- Places of a staging list (R145). -/
def stagingPlaces : Nat := 16

/-- Records of the notice queue (R159). -/
def noticeQueuePlaces : Nat := 32

/-- The longest link frame in bytes (R95). -/
def frameMax : Nat := 252

/-- The tag of management frames (R95, R5). -/
def managementTag : Tag := 0xFFFF

/-- The part identity that STATUS reports (R133). -/
def partIdentity : BitVec 16 := 0x4256

/-- The revision that STATUS reports (R133). -/
def revision : Byte := 1

/-- The kind mask after POR: bits 0 to 12 set (R163). -/
def maskReset : BitVec 16 := 0x1FFF

/-- The credit maximum, and the credits, after POR (R163). -/
def creditReset : Nat := 8

/-- The refill interval after POR, in milliseconds (R163). -/
def refillReset : Nat := 50

end Sys2Proof.Config
end

