-- ==== Sys2Proof/Machine/State.lean ====
section
/-! DEFINITION. The state of the part, as plain data: every register, queue, timer, counter, mode and latch the spec
gives it, and the model's queue of waiting commands; the state after power-on reset; the reasons a step can stop. -/

namespace Sys2Proof.Machine

/-! ### The stream table (section 1) -/

/-- The selection part of a PREFERRED entry (R4, R14). -/
structure SelectionPart where
  /-- Whether the stream returns to a better feed. -/
  revertive : Bool
  /-- The revert hold-off in milliseconds, 0 to 60,000. -/
  holdOff : Nat
  /-- The rescue threshold, 1 to 15. -/
  rescueThreshold : Nat
  deriving DecidableEq, Repr

/-- The mode of an entry; the selection part is present exactly when the mode is PREFERRED (R4, R6). -/
inductive Mode where
  | first
  | preferred (part : SelectionPart)
  deriving DecidableEq, Repr

/-- The configuration of one stream (R4). -/
structure Entry where
  enabled : Bool
  tag : Tag
  mode : Mode
  /-- The feed list in priority order (R7). -/
  feeds : List Feed
  /-- The expected origin, when present (R8). -/
  origin : Option Byte
  /-- Nominal interval between samples, in microseconds (R9). -/
  period : Nat
  /-- Lateness allowed beyond the period, in microseconds (R9). -/
  slack : Nat
  /-- The window W (R10). -/
  window : Nat
  holdLimit : Nat
  resyncThreshold : Nat
  placeholderLimit : Nat
  deriving DecidableEq, Repr

/-- One of the two banks, with its tag index: one mapping for each ENABLED entry (R15, R16). The index is kept
in rising order of tag. -/
structure Bank where
  slots : Vector (Option Entry) 256
  index : List (Tag × Slot)
  deriving DecidableEq, Repr

/-- The names of the two banks (R15). -/
inductive BankId where
  | a
  | b
  deriving DecidableEq, Repr

/-- What a staged change does to its slot (R145). -/
inductive Change where
  | write (entry : Entry)
  | remove
  deriving DecidableEq, Repr

/-- One staged change (R145). -/
structure StagedChange where
  slot : Slot
  change : Change
  deriving DecidableEq, Repr

/-- An accepted commit: the token and sequence its deferred reply will carry, and its change list (R150). -/
structure Commit where
  token : Token
  seq : Byte
  changes : List StagedChange
  deriving DecidableEq, Repr

/-- The table engine's state and the work in hand (R148). -/
inductive EngineState where
  | ready
  /-- One commit in prepare; the flag says that its swap has been requested (R151). -/
  | preparing (commit : Commit) (swapRequested : Bool)
  /-- The sync of a change list, and the commit queued behind it, if any (R155). -/
  | syncing (changes : List StagedChange) (queued : Option Commit)
  deriving DecidableEq, Repr

/-! ### The runtime records (sections 2 to 4) -/

/-- The merge state of a runtime record (R21). -/
inductive MergeState where
  | disabled
  | seeking
  | tracking
  | bridging
  | starved
  deriving DecidableEq, Repr

/-- A received copy of a sample: the feed it arrived on and the fields the part carries (R27, R95). -/
structure Copy where
  feed : Feed
  tag : Tag
  seq : Seq
  origin : Byte
  payload : List Byte
  deriving DecidableEq, Repr

/-- The resync candidate (R20, R39). -/
structure Candidate where
  seq : Seq
  count : Nat
  deriving DecidableEq, Repr

/-- The selector state (R62). -/
inductive SelectorState where
  | noFeed
  | primary
  | backup
  | revertWait
  deriving DecidableEq, Repr

/-- The rescue run (R62, R72). -/
structure RescueRun where
  feed : Feed
  count : Nat
  deriving DecidableEq, Repr

/-- The selector part of a PREFERRED stream's record (R62). -/
structure Selector where
  state : SelectorState
  active : Option Feed
  /-- The hold-off timer's expiry, when it runs. -/
  holdOff : Option Moment
  rescueRun : Option RescueRun
  reviewPending : Bool
  deriving DecidableEq, Repr

/-- The thirteen stream counters, in the order of the table of section 2.11. -/
structure StreamCounters where
  delivered : Counter
  rescued : Counter
  placeholders : Counter
  suppressed : Counter
  gapEvents : Counter
  lostSequences : Counter
  lateDuplicates : Counter
  outOfWindow : Counter
  resyncs : Counter
  strayCopies : Counter
  foreignCopies : Counter
  noBufferDrops : Counter
  undeliverable : Counter
  deriving DecidableEq, Repr

/-- Every stream counter at 0. -/
def StreamCounters.zero : StreamCounters := ⟨0, 0, 0, 0, 0, 0, 0, 0, 0, 0, 0, 0, 0⟩

/-- The runtime record of a slot (R20). Each held copy is kept with its buffer's contents (R22). -/
structure Runtime where
  mergeState : MergeState
  /-- The next expected sequence, when present. -/
  nes : Option Seq
  /-- The hold list, head first. -/
  hold : List Copy
  candidate : Option Candidate
  /-- The due timer's expiry, when it is armed. -/
  due : Option Moment
  placeholderRun : Nat
  gapMark : Bool
  selector : Option Selector
  counters : StreamCounters
  deriving DecidableEq, Repr

/-- A runtime record in DISABLED with counters `c` (R21, R23, R153). -/
def Runtime.disabled (c : StreamCounters) : Runtime :=
  { mergeState := .disabled, nes := none, hold := [], candidate := none, due := none, placeholderRun := 0,
    gapMark := false, selector := none, counters := c }

/-! ### Feeds (sections 5 and 6) -/

/-- A feed monitor's eight settings (R79). -/
structure Settings where
  /-- Window length in microseconds. -/
  windowLength : Nat
  minValid : Nat
  acceptMargin : Nat
  rejectMargin : Nat
  /-- The qualify count Q. -/
  qualify : Nat
  /-- The disqualify count D. -/
  disqualify : Nat
  advisory : Bool
  disabled : Bool
  deriving DecidableEq, Repr

/-- The settings after POR and CLEAR (R79). -/
def Settings.reset : Settings :=
  { windowLength := 10000, minValid := 1, acceptMargin := 0, rejectMargin := 4, qualify := 3, disqualify := 2,
    advisory := false, disabled := false }

/-- The feed state (R84). -/
inductive FeedState where
  | disabled
  | down
  | probation
  | inService
  | quarantine
  deriving DecidableEq, Repr

/-- A running health window (R78, R80). -/
structure Window where
  expiry : Moment
  /-- V: valid frames. -/
  valid : BitVec 16
  /-- E: errored frames. -/
  errored : BitVec 16
  deriving DecidableEq, Repr

/-- The nine feed counters, in the order of the table of section 5.6. -/
structure FeedCounters where
  valid : Counter
  errored : Counter
  unknownTag : Counter
  misdirected : Counter
  unusableDrops : Counter
  windowsAccepted : Counter
  windowsNeutral : Counter
  windowsRejected : Counter
  quarantines : Counter
  deriving DecidableEq, Repr

/-- Every feed counter at 0. -/
def FeedCounters.zero : FeedCounters := ⟨0, 0, 0, 0, 0, 0, 0, 0, 0⟩

/-- A feed monitor's record (R78). -/
structure Monitor where
  state : FeedState
  /-- Whether the link is up, as last reported. -/
  link : Bool
  current : Settings
  pending : Option Settings
  window : Option Window
  acceptedRun : Nat
  rejectTally : Nat
  /-- Usability as the monitor publishes it (R87). -/
  usable : Bool
  counters : FeedCounters
  deriving DecidableEq, Repr

/-- A monitor after POR (R92). -/
def Monitor.reset : Monitor :=
  { state := .down, link := false, current := Settings.reset, pending := none, window := none, acceptedRun := 0,
    rejectTally := 0, usable := false, counters := FeedCounters.zero }

/-- A feed port: the receive store (R97) and the copies offered and not yet taken, oldest first (R99). -/
structure Port where
  receiveStore : List Byte
  offered : List Copy
  deriving DecidableEq, Repr

/-! ### Buffers and the delivery port (sections 6 and 7) -/

/-- The frame kinds of R95 that have a name. -/
inductive FrameKind where
  | sample
  | command
  | reply
  | notice
  deriving DecidableEq, Repr

/-- A frame the part sends, as it is built when it is placed in its queue (R101). Its length field and check word
are those of `Frame.wire`, computed over these fields. -/
structure Frame where
  kind : FrameKind
  marks : Byte
  tag : Tag
  seq : BitVec 16
  origin : Byte
  payload : List Byte
  deriving DecidableEq, Repr

/-- The buffer manager: the count of free buffers and the pool pressure flag (R107, R110). -/
structure Pool where
  free : Nat
  pressure : Bool
  deriving DecidableEq, Repr

/-- The transmitter (R113, R114): idle, sending a data frame in its pool buffer, or sending a control frame from
its own store. -/
inductive Transmitter where
  | idle
  | data (frame : Frame)
  | control (frame : Frame)
  deriving DecidableEq, Repr

/-- The delivery port but for the data queue (R100, R112 to R117). -/
structure Delivery where
  linkUp : Bool
  receiveStore : List Byte
  controlQueue : List Frame
  replyWait : List Frame
  transmitter : Transmitter
  dataRun : Nat
  errored : Counter
  foreign : Counter
  flushed : Counter
  deriving DecidableEq, Repr

/-- The delivery port after POR (R118). -/
def Delivery.reset : Delivery :=
  { linkUp := false, receiveStore := [], controlQueue := [], replyWait := [], transmitter := .idle, dataRun := 0,
    errored := 0, foreign := 0, flushed := 0 }

/-! ### Management (section 8) -/

/-- A received command: the four fields of the command envelope and its arguments (R103, 6.6.2). -/
structure Command where
  token : Token
  seq : Byte
  code : Byte
  args : List Byte
  deriving DecidableEq, Repr

/-- The result codes of 6.6.5. -/
inductive ResultCode where
  | ok
  | pending
  | busy
  | noSession
  | sessionHeld
  | outOfOrder
  | badArgument
  | unknownCommand
  | stagingFull
  | notStaged
  | stale
  | invalidEntry
  | aborted
  deriving DecidableEq, Repr

/-- A reply as the management engine builds it (R104, R124). -/
structure Reply where
  token : Token
  seq : Byte
  code : Byte
  result : ResultCode
  data : List Byte
  deriving DecidableEq, Repr

/-- The reply cache: the last reply, or a pending COMMIT marker (R123, R127). -/
inductive Cache where
  | reply (reply : Reply)
  | pendingCommit (token : Token) (seq : Byte)
  deriving DecidableEq, Repr

/-- The session record (R123). -/
structure Session where
  token : Token
  last : Byte
  cache : Cache
  /-- The idle timeout in seconds. -/
  idleTimeout : Nat
  idleExpiry : Moment
  staging : List StagedChange
  deriving DecidableEq, Repr

/-! ### Notices and alarms (section 11) -/

/-- The notice kinds (R158). -/
inductive NoticeKind where
  | feedUnusable
  | feedUsable
  | streamGap
  | streamBridging
  | streamStarved
  | streamRecovered
  | streamResync
  | activeSwitch
  | foreignCopy
  | poolExhausted
  | poolRecovered
  | sessionExpired
  | inboxOverflow
  deriving DecidableEq, Repr

/-- The subject of a notice (R106). -/
inductive Subject where
  | part
  | feed (feed : Feed)
  | stream (slot : Slot)
  deriving DecidableEq, Repr

/-- A raised notice: kind, subject, tag and the two detail bytes (R158, R106). The tag is that of the stream's live
entry at the moment of raising (R58), and 0xFFFF for a feed or part subject. A record takes the tag of the live entry at
its creation (R158), and this one only where the slot is then EMPTY (log 5). -/
structure Notice where
  kind : NoticeKind
  subject : Subject
  tag : Tag
  detail : BitVec 16
  deriving DecidableEq, Repr

/-- A record of the notice queue (R158). -/
structure NoticeRecord where
  kind : NoticeKind
  subject : Subject
  tag : Tag
  repeats : Nat
  first : Time
  last : Time
  detail : BitVec 16
  deriving DecidableEq, Repr

/-- The notice unit but for the alarm latches (R158 to R162). -/
structure NoticeUnit where
  /-- Notices that wait from before the latest setting of the mask and that the mask of their raising lets through,
  oldest first; they are taken before `raised` (R139, R158). -/
  earlier : List Notice
  /-- Notices raised since then that have reached the unit and that it has not yet taken, oldest first; the present mask
  governs them (R139, R158). -/
  raised : List Notice
  queue : List NoticeRecord
  /-- The pending lost count (R160). -/
  lost : BitVec 16
  mask : BitVec 16
  creditMax : Nat
  credits : Nat
  /-- The refill interval in milliseconds. -/
  refillInterval : Nat
  refillExpiry : Moment
  deriving DecidableEq, Repr

/-- The notice unit after POR, its refill timer started at the moment `now`, with the notices `earlier` still to be taken
(R163). -/
def NoticeUnit.start (earlier : List Notice) (now : Moment) : NoticeUnit :=
  { earlier := earlier, raised := [], queue := [], lost := 0, mask := Config.maskReset
    creditMax := Config.creditReset, credits := Config.creditReset, refillInterval := Config.refillReset
    refillExpiry := now + Config.refillReset * 1000 }

/-! ### The machine -/

/-- The whole state of the part. `pending` is the model's queue of commands that wait; every other field is the
spec's. -/
structure State where
  pending : List Instr
  /-- Microseconds since power-on reset, without a wrap; part time is 32 bits of it (`State.partTime`; R2, log 3). -/
  elapsed : Moment
  ports : Vector Port 4
  monitors : Vector Monitor 4
  /-- Feed events each monitor has sent and the merge engine has not yet taken (R67, R88). -/
  feedEvents : Vector Nat 4
  bankA : Bank
  bankB : Bank
  /-- The live-bank selector (R15). -/
  live : BankId
  generation : BitVec 32
  engine : EngineState
  runtimes : Vector Runtime 256
  pool : Pool
  dataQueue : List Frame
  delivery : Delivery
  inbox : List Command
  inboxOverflows : Counter
  session : Option Session
  notices : NoticeUnit
  feedLatches : Vector Bool 4
  streamLatches : Vector Bool 256
  deriving DecidableEq, Repr

/-- The reasons a step can stop with a fault: none. No rule of the spec stops the part: a bad frame is counted, a
bad command is answered with a result code, a refused buffer claim is counted. -/
inductive Fault where
  deriving DecidableEq, Repr

/-- The reasons a command can be refused. -/
inductive Refusal where
  /-- Raised by an arm of `exec` whose command has no meaning yet: safe. No arm raises it. -/
  | notModelled (mnemonic : String)
  deriving DecidableEq, Repr

/-- A bank with every slot EMPTY (R19). -/
def Bank.empty : Bank := { slots := Vector.replicate 256 none, index := [] }

/-- The machine right after power-on reset (R2, R19, R23, R79, R92, R97, R118, R129, R156, R163 to R165). -/
def State.reset : State :=
  { pending := []
    elapsed := 0
    ports := Vector.replicate 4 { receiveStore := [], offered := [] }
    monitors := Vector.replicate 4 Monitor.reset
    feedEvents := Vector.replicate 4 0
    bankA := Bank.empty
    bankB := Bank.empty
    live := .a
    generation := 0
    engine := .ready
    runtimes := Vector.replicate 256 (Runtime.disabled StreamCounters.zero)
    pool := { free := Config.poolSize, pressure := false }
    dataQueue := []
    delivery := Delivery.reset
    inbox := []
    inboxOverflows := 0
    session := none
    notices := NoticeUnit.start [] 0
    feedLatches := Vector.replicate 4 true
    streamLatches := Vector.replicate 256 false }

end Sys2Proof.Machine
end

