-- ==== Sys2Proof/Machine/Clock.lean ====
section
/-! DEFINITION. The part clock. -/

namespace Sys2Proof.Machine

/-- One microsecond of part time (R2). DESIGN CHOICE (log 1): it passes at a step on an empty queue. -/
def State.tick (s : State) : State := { s with elapsed := s.elapsed + 1 }

end Sys2Proof.Machine
end

