-- ==== Sys2Proof/Machine/Arith.lean ====
section
/-! DEFINITION. Sequence arithmetic, saturating counters, moments and part time, byte order, and the check word. -/

namespace Sys2Proof.Machine

/-- The distance of sequence `s` from the next expected sequence `n` (R1). -/
def dist (n s : Seq) : Nat := (s - n).toNat

/-- A copy at distance `d` is behind (R1). -/
def behind (d : Nat) : Bool := 32768 ≤ d

/-- A 32-bit counter increased by `k`, held at its greatest value (00_scope, Counters; R45). -/
def satAdd (c : Counter) (k : Nat) : Counter := BitVec.ofNat 32 (min (c.toNat + k) 4294967295)

/-- A 32-bit counter increased by 1, held at its greatest value (R45, R91). -/
def satInc (c : Counter) : Counter := satAdd c 1

/-- A 16-bit count increased by `k`, held at 65,535 (R81, R160). -/
def satAdd16 (c : BitVec 16) (k : Nat) : BitVec 16 := BitVec.ofNat 16 (min (c.toNat + k) 65535)

/-- The moment `us` microseconds after `t` (R2). -/
def after (t : Moment) (us : Nat) : Moment := t + us

/-- A timer set for the moment `expiry` has reached its expiry at the moment `now` (R2; log 3). -/
def reached (now expiry : Moment) : Bool := decide (expiry ≤ now)

/-- The part time of a moment: 32 bits of it, wrapping from 4,294,967,295 to 0 (R2). -/
def partTimeOf (t : Moment) : Time := BitVec.ofNat 32 t

/-- The two bytes of a 16-bit field, most significant first (00_scope, Byte Order). -/
def be16 (w : BitVec 16) : List Byte := [w.extractLsb' 8 8, w.extractLsb' 0 8]

/-- The four bytes of a 32-bit field, most significant first (00_scope, Byte Order). -/
def be32 (w : BitVec 32) : List Byte :=
  [w.extractLsb' 24 8, w.extractLsb' 16 8, w.extractLsb' 8 8, w.extractLsb' 0 8]

/-- The 16-bit field read from two bytes, most significant first. -/
def word16 (hi lo : Byte) : BitVec 16 := hi ++ lo

/-- The byte at an offset of a frame or an argument list. -/
def byteAt (bytes : List Byte) (i : Nat) : Byte := bytes.getD i 0

/-- The 16-bit field at an offset. -/
def word16At (bytes : List Byte) (i : Nat) : BitVec 16 := word16 (byteAt bytes i) (byteAt bytes (i + 1))

/-- The 32-bit field at an offset. -/
def word32At (bytes : List Byte) (i : Nat) : BitVec 32 := word16At bytes i ++ word16At bytes (i + 2)

/-- A one-byte field that holds the number `n`. -/
def byteOf (n : Nat) : Byte := BitVec.ofNat 8 n

/-- A flag of a reply: one byte, 1 for yes and 0 for no (R132). -/
def flagByte (b : Bool) : Byte := if b then 1 else 0

/-- One bit taken into the check register (R96). -/
def crcBit (r : BitVec 32) (bit : Bool) : BitVec 32 :=
  if (r.msb ^^ bit) then (r <<< 1) ^^^ 0x04C11DB7 else r <<< 1

/-- One byte taken into the check register, most significant bit first (R96). -/
def crcByte (r : BitVec 32) (b : Byte) : BitVec 32 :=
  [7, 6, 5, 4, 3, 2, 1, 0].foldl (fun r i => crcBit r (b.getLsbD i)) r

/-- The check word over a header and payload (R96). -/
def checkWord (bytes : List Byte) : BitVec 32 := ~~~(bytes.foldl crcByte 0xFFFFFFFF)

end Sys2Proof.Machine
end

