-- ==== Sys2Proof/Machine/Flags.lean ====
section
/-! DEFINITION. Flags: the kind mask, the pool pressure flag, the alarm latches and the ALERT output. -/

namespace Sys2Proof.Machine

/-- The mask bit that governs a notice kind (6.6.5). -/
def NoticeKind.bit : NoticeKind → Nat
  | .feedUnusable => 0
  | .feedUsable => 1
  | .streamGap => 2
  | .streamBridging => 3
  | .streamStarved => 4
  | .streamRecovered => 5
  | .streamResync => 6
  | .activeSwitch => 7
  | .foreignCopy => 8
  | .poolExhausted => 9
  | .poolRecovered => 10
  | .sessionExpired => 11
  | .inboxOverflow => 12

/-- The kind's bit in the kind mask is set (R159). -/
def maskAllows (mask : BitVec 16) (k : NoticeKind) : Bool := mask.getLsbD k.bit

/-- The waiting notices that the mask they were raised under lets through, oldest first: they stay to be taken when the
mask is set anew, and the others were not raised (R139, R159). -/
def NoticeUnit.stillDue (u : NoticeUnit) : List Notice := u.earlier ++ u.raised.filter fun n => maskAllows u.mask n.kind

/-- A kind mask as it is held: bits 13 to 15 are not read (6.6.5, R137). -/
def maskRead (w : BitVec 16) : BitVec 16 := w &&& 0x1FFF

/-- A notice with the part as subject (R158). -/
def partNotice (kind : NoticeKind) : Notice := ⟨kind, .part, Config.managementTag, 0⟩

/-- The pressure flag at a refused claim, and the notice its setting raises (R110). -/
def Pool.refused (p : Pool) : Pool × List Notice :=
  if p.pressure then (p, []) else ({ p with pressure := true }, [partNotice .poolExhausted])

/-- The pressure flag tested after a free: cleared with a notice when it is set and 32 or more buffers are free
(R110). -/
def Pool.tested (p : Pool) : Pool × List Notice :=
  if p.pressure && decide (Config.pressureClear ≤ p.free) then
    ({ p with pressure := false }, [partNotice .poolRecovered])
  else (p, [])

/-- Number of set latches of a table. -/
def setLatches {n : Nat} (v : Vector Bool n) : Nat := v.toList.countP id

/-- The ALERT output: asserted while any of the 260 latches is set (R164). -/
def State.alert (s : State) : Bool :=
  allFeeds.any (rd s.feedLatches) || allSlots.any (rd s.streamLatches)

/-- The condition that holds a feed latch against acknowledgement: the feed is unusable (R142). -/
def State.feedHeld (s : State) (f : Feed) : Bool := !(rd s.monitors f).usable

/-- The condition that holds a stream latch against acknowledgement: the runtime is in BRIDGING or STARVED
(R142, R58). -/
def State.streamHeld (s : State) (i : Slot) : Bool :=
  (rd s.runtimes i).mergeState == .bridging || (rd s.runtimes i).mergeState == .starved

end Sys2Proof.Machine
end

