-- ==== Sys2Proof/Machine/Frames.lean ====
section
/-! DEFINITION. Link frames: the tests of a received frame, its fields, and the bytes of a frame the part sends. -/

namespace Sys2Proof.Machine

/-- The code of a frame kind (R95). -/
def FrameKind.code : FrameKind → Byte
  | .sample => 0x01
  | .command => 0x02
  | .reply => 0x03
  | .notice => 0x04

/-- The payload length field of a frame (6.6.1). -/
def payloadLength (bytes : List Byte) : Nat := (byteAt bytes 7).toNat

/-- A received frame is errored: its length is below 12, above 252, or not 12 plus its payload length field, or its
check word differs from the one computed over it (R97). -/
def frameErrored (bytes : List Byte) : Bool :=
  bytes.length < 12 || Config.frameMax < bytes.length || bytes.length != 12 + payloadLength bytes ||
    word32At bytes (8 + payloadLength bytes) != checkWord (bytes.take (8 + payloadLength bytes))

/-- The kind byte of a received frame (6.6.1). -/
def frameKindByte (bytes : List Byte) : Byte := byteAt bytes 0

/-- The tag field of a received frame (6.6.1). -/
def frameTag (bytes : List Byte) : Tag := word16At bytes 2

/-- The payload of a received frame (6.6.1). -/
def framePayload (bytes : List Byte) : List Byte := (bytes.drop 8).take (payloadLength bytes)

/-- The copy a valid SAMPLE frame carries: the fields the part reads and carries, and the feed it arrived on
(R95, R98). The marks byte of a received frame is not read. -/
def copyOfFrame (feed : Feed) (bytes : List Byte) : Copy :=
  { feed := feed, tag := frameTag bytes, seq := word16At bytes 4, origin := byteAt bytes 6,
    payload := framePayload bytes }

/-- The command a COMMAND frame's payload carries: token, command sequence and code, then the arguments (6.6.2). -/
def commandOfPayload (payload : List Byte) : Command :=
  { token := word16At payload 0, seq := byteAt payload 2, code := byteAt payload 3, args := payload.drop 4 }

/-- The header and payload of a frame the part sends (6.6.1). -/
def Frame.body (f : Frame) : List Byte :=
  [f.kind.code, f.marks] ++ be16 f.tag ++ be16 f.seq ++ [f.origin, byteOf f.payload.length] ++ f.payload

/-- The bytes of a frame on the link: header, payload and the check word computed over them (R96, R101). -/
def Frame.wire (f : Frame) : List Byte := f.body ++ be32 (checkWord f.body)

/-- The marks byte of a delivered SAMPLE frame (R102). -/
def marksByte (feed : Feed) (rescued placeholder afterGap afterResync firstAfterSeek : Bool) : Byte :=
  BitVec.ofNat 8 (feed.val + (if rescued then 4 else 0) + (if placeholder then 8 else 0) +
    (if afterGap then 16 else 0) + (if afterResync then 32 else 0) + (if firstAfterSeek then 64 else 0))

/-- The frame of a released copy: its marks, and every other field as received (R27, R101). -/
def copyFrame (c : Copy) (rescued afterGap afterResync firstAfterSeek : Bool) : Frame :=
  { kind := .sample, marks := marksByte c.feed rescued false afterGap afterResync firstAfterSeek, tag := c.tag,
    seq := c.seq, origin := c.origin, payload := c.payload }

/-- The placeholder frame for sequence `n` of a stream (R54). -/
def placeholderFrame (e : Entry) (n : Seq) (afterGap : Bool) : Frame :=
  { kind := .sample, marks := marksByte 0 false true afterGap false false, tag := e.tag, seq := n,
    origin := e.origin.getD 0, payload := [] }

/-- A management frame the part sends (R101). -/
def managementFrame (kind : FrameKind) (payload : List Byte) : Frame :=
  { kind := kind, marks := 0, tag := Config.managementTag, seq := 0, origin := 0, payload := payload }

/-- The bytes the delivery link's transmit side is sending, none while the transmitter is idle (R101, R114). -/
def State.transmittedBytes (s : State) : List Byte :=
  match s.delivery.transmitter with
  | .idle => []
  | .data f => f.wire
  | .control f => f.wire

end Sys2Proof.Machine
end

