-- ==== Sys2Proof/Machine/Operands.lean ====
section
/-! DEFINITION. The records and codes on the wire: stream entry record, feed settings record, notice record, reply
envelope, and the codes of section 6.6.5 and R132. -/

namespace Sys2Proof.Machine

/-- The codes of 6.6.5 that name a command. -/
def commandCodes : List Byte :=
  [0x01, 0x02, 0x10, 0x11, 0x12, 0x13, 0x20, 0x21, 0x22, 0x23, 0x24, 0x2F, 0x30, 0x31, 0x32, 0x33]

/-- The code of a result (6.6.5). -/
def ResultCode.code : ResultCode → Byte
  | .ok => 0x00
  | .pending => 0x01
  | .busy => 0x02
  | .noSession => 0x03
  | .sessionHeld => 0x04
  | .outOfOrder => 0x05
  | .badArgument => 0x06
  | .unknownCommand => 0x07
  | .stagingFull => 0x08
  | .notStaged => 0x09
  | .stale => 0x0A
  | .invalidEntry => 0x0B
  | .aborted => 0x0C

/-- The reasons of an INVALID_ENTRY reply (R105, R149). -/
inductive EntryReason where
  | fieldRange
  | feedList
  | selectionPart
  | reservedTag
  | tagDuplicate
  deriving DecidableEq, Repr

/-- The code of a reason (6.6.5). -/
def EntryReason.code : EntryReason → Byte
  | .fieldRange => 0x01
  | .feedList => 0x02
  | .selectionPart => 0x03
  | .reservedTag => 0x04
  | .tagDuplicate => 0x05

/-- The code of a notice kind (6.6.5). -/
def NoticeKind.code : NoticeKind → Byte
  | .feedUnusable => 0x01
  | .feedUsable => 0x02
  | .streamGap => 0x10
  | .streamBridging => 0x11
  | .streamStarved => 0x12
  | .streamRecovered => 0x13
  | .streamResync => 0x14
  | .activeSwitch => 0x15
  | .foreignCopy => 0x16
  | .poolExhausted => 0x20
  | .poolRecovered => 0x21
  | .sessionExpired => 0x30
  | .inboxOverflow => 0x31

/-- The causes of FEED_UNUSABLE (R88). -/
inductive UnusableCause where
  | linkDown
  | quarantine
  | disable
  | reset
  deriving DecidableEq, Repr

/-- The code of a cause (6.6.5). -/
def UnusableCause.code : UnusableCause → Byte
  | .linkDown => 0x01
  | .quarantine => 0x02
  | .disable => 0x03
  | .reset => 0x04

/-- The code of a feed in arguments, replies and notices (R103, R132). -/
def feedByte (f : Feed) : Byte := byteOf f.val

/-- The code of a feed that may be absent: 0xFF for none (R106, R132). -/
def feedOrNone (f : Option Feed) : Byte :=
  match f with
  | some g => feedByte g
  | none => 0xFF

/-- The feed a byte names, if it names one (R103). -/
def feedOf (b : Byte) : Option Feed := if h : b.toNat < 4 then some ⟨b.toNat, h⟩ else none

/-- The slot a byte names (R103). -/
def slotOf (b : Byte) : Slot := ⟨b.toNat, b.isLt⟩

/-- The code of a slot. -/
def slotByte (i : Slot) : Byte := byteOf i.val

/-! ### The stream entry record (6.6.4, R105) -/

/-- The selection part's fields lie in their ranges (R4). -/
def SelectionPart.inRange (p : SelectionPart) : Bool :=
  decide (p.holdOff ≤ 60000) && decide (1 ≤ p.rescueThreshold) && decide (p.rescueThreshold ≤ 15)

/-- The fields of an entry that reason FIELD_RANGE is about lie in their ranges (R4). -/
def Entry.inRange (e : Entry) : Bool :=
  decide (10 ≤ e.period) && decide (e.period ≤ 1000000) && decide (e.slack ≤ 65535) && decide (1 ≤ e.window) &&
    decide (e.window ≤ 1023) && decide (e.holdLimit ≤ 8) && decide (1 ≤ e.resyncThreshold) &&
    decide (e.resyncThreshold ≤ 7) && decide (e.placeholderLimit ≤ 255) &&
    (match e.mode with
     | .first => true
     | .preferred p => p.inRange)

/-- The feed list is one to four distinct feeds (R4, R7). -/
def feedListOk (feeds : List Feed) : Bool :=
  decide (1 ≤ feeds.length) && decide (feeds.length ≤ 4) && decide feeds.Nodup

/-- The selection part as the record gives it (6.6.4). -/
def selectionOfRecord (r : List Byte) : SelectionPart :=
  { revertive := (byteAt r 0).getLsbD 4, holdOff := (word16At r 20).toNat, rescueThreshold := (byteAt r 22).toNat }

/-- The entry that a 23-byte record spells with the feed list `feeds`; bytes and bits that R105 says are not read
are not read here (6.6.4). -/
def entryOfRecord (r : List Byte) (feeds : List Feed) : Entry :=
  { enabled := (byteAt r 0).getLsbD 0
    tag := word16At r 1
    mode := if (byteAt r 0).getLsbD 1 then .preferred (selectionOfRecord r) else .first
    feeds := feeds
    origin := if (byteAt r 0).getLsbD 2 then some (byteAt r 8) else none
    period := (word32At r 9).toNat
    slack := (word16At r 13).toNat
    window := (word16At r 15).toNat
    holdLimit := (byteAt r 17).toNat
    resyncThreshold := (byteAt r 18).toNat
    placeholderLimit := (byteAt r 19).toNat }

/-- The listed feed bytes of a record: as many as its feed count, at most four (6.6.4). -/
def feedBytes (r : List Byte) : List Byte := ((r.drop 4).take 4).take (byteAt r 3).toNat

/-- The check of a stream entry record: the entry it spells, or the first applicable reason in the order
FEED_LIST, SELECTION_PART, RESERVED_TAG, FIELD_RANGE (R105). -/
def checkRecord (r : List Byte) : Except EntryReason Entry :=
  if (byteAt r 3).toNat < 1 || 4 < (byteAt r 3).toNat || (feedBytes r).any (fun b => (feedOf b).isNone) ||
      !feedListOk ((feedBytes r).filterMap feedOf) then .error .feedList
  else if (byteAt r 0).getLsbD 1 != (byteAt r 0).getLsbD 3 then .error .selectionPart
  else if word16At r 1 = Config.managementTag then .error .reservedTag
  else if (entryOfRecord r ((feedBytes r).filterMap feedOf)).inRange then
    .ok (entryOfRecord r ((feedBytes r).filterMap feedOf))
  else .error .fieldRange

/-- The flags byte of an entry's record, bits 5 to 7 at 0 (6.6.4). -/
def entryFlags (e : Entry) : Byte :=
  byteOf ((if e.enabled then 1 else 0) +
    (match e.mode with
     | .first => 0
     | .preferred p => 2 + 8 + (if p.revertive then 16 else 0)) +
    (if e.origin.isSome then 4 else 0))

/-- The 23-byte record of an entry; every byte and bit that the layout marks as not read is 0 (6.6.4, R105). -/
def entryRecord (e : Entry) : List Byte :=
  [entryFlags e] ++ be16 e.tag ++ [byteOf e.feeds.length] ++
    (e.feeds.map feedByte ++ List.replicate 4 0).take 4 ++ [e.origin.getD 0] ++
    be32 (BitVec.ofNat 32 e.period) ++ be16 (BitVec.ofNat 16 e.slack) ++ be16 (BitVec.ofNat 16 e.window) ++
    [byteOf e.holdLimit, byteOf e.resyncThreshold, byteOf e.placeholderLimit] ++
    (match e.mode with
     | .first => [0, 0, 0]
     | .preferred p => be16 (BitVec.ofNat 16 p.holdOff) ++ [byteOf p.rescueThreshold])

/-! ### The feed settings record (R138) -/

/-- The settings that a nine-byte record spells; flag bits 2 to 7 are not read (R138). -/
def settingsOfRecord (r : List Byte) : Settings :=
  { windowLength := (word16At r 0).toNat
    minValid := (word16At r 2).toNat
    acceptMargin := (byteAt r 4).toNat
    rejectMargin := (byteAt r 5).toNat
    qualify := (byteAt r 6).toNat
    disqualify := (byteAt r 7).toNat
    advisory := (byteAt r 8).getLsbD 0
    disabled := (byteAt r 8).getLsbD 1 }

/-- The settings lie in their ranges, and the accept margin is not greater than the reject margin (R79, R138). -/
def Settings.inRange (c : Settings) : Bool :=
  decide (100 ≤ c.windowLength) && decide (c.windowLength ≤ 65535) && decide (c.minValid ≤ 65535) &&
    decide (c.acceptMargin ≤ c.rejectMargin) && decide (c.rejectMargin ≤ 255) && decide (1 ≤ c.qualify) &&
    decide (c.qualify ≤ 15) && decide (1 ≤ c.disqualify) && decide (c.disqualify ≤ 15)

/-- The nine-byte record of a feed's settings (R136, R138). -/
def settingsRecord (c : Settings) : List Byte :=
  be16 (BitVec.ofNat 16 c.windowLength) ++ be16 (BitVec.ofNat 16 c.minValid) ++
    [byteOf c.acceptMargin, byteOf c.rejectMargin, byteOf c.qualify, byteOf c.disqualify,
     byteOf ((if c.advisory then 1 else 0) + (if c.disabled then 2 else 0))]

/-! ### Notice records and reply envelopes (6.6.6, 6.6.3) -/

/-- The subject type and number of a notice record (R106). -/
def Subject.bytes : Subject → List Byte
  | .part => [0, 0]
  | .feed f => [1, feedByte f]
  | .stream i => [2, slotByte i]

/-- The 18 bytes of a notice record that carries the pending lost count `lost` (R106, 6.6.6). -/
def noticeRecordBytes (lost : BitVec 16) (r : NoticeRecord) : List Byte :=
  be16 lost ++ [r.kind.code] ++ r.subject.bytes ++ be16 r.tag ++ [byteOf r.repeats] ++ be32 r.first ++ be32 r.last ++
    be16 r.detail

/-- The frame a notice record becomes (R101, R106). -/
def noticeFrame (lost : BitVec 16) (r : NoticeRecord) : Frame :=
  managementFrame .notice (noticeRecordBytes lost r)

/-- The reply to a command (R104). -/
def replyTo (c : Command) (result : ResultCode) (data : List Byte) : Reply :=
  { token := c.token, seq := c.seq, code := c.code, result := result, data := data }

/-- The reply envelope (6.6.3). -/
def Reply.bytes (r : Reply) : List Byte := be16 r.token ++ [r.seq, r.code, r.result.code] ++ r.data

/-- The frame of a reply (R101, R104). -/
def replyFrame (r : Reply) : Frame := managementFrame .reply r.bytes

/-- The code of COMMIT, which a deferred reply carries (R104, 6.6.5). -/
def commitCode : Byte := 0x33

/-- The deferred reply of a commit (R104, R127). -/
def deferredReply (c : Commit) (result : ResultCode) (data : List Byte) : Reply :=
  { token := c.token, seq := c.seq, code := commitCode, result := result, data := data }

/-! ### Codes of reply data (R132) -/

/-- Bank code (R132). -/
def BankId.code : BankId → Byte
  | .a => 0
  | .b => 1

/-- Table engine state code (R132). -/
def EngineState.code : EngineState → Byte
  | .ready => 0
  | .preparing _ _ => 1
  | .syncing _ none => 2
  | .syncing _ (some _) => 3

/-- Slot state code of a bank's slot (R132, R3). -/
def slotStateCode : Option Entry → Byte
  | none => 0
  | some e => if e.enabled then 2 else 1

/-- Merge state code (R132). -/
def MergeState.code : MergeState → Byte
  | .disabled => 0
  | .seeking => 1
  | .tracking => 2
  | .bridging => 3
  | .starved => 4

/-- Selector state code (R132). -/
def SelectorState.code : SelectorState → Byte
  | .noFeed => 0
  | .primary => 1
  | .backup => 2
  | .revertWait => 3

/-- Feed state code (R132). -/
def FeedState.code : FeedState → Byte
  | .disabled => 0
  | .down => 1
  | .probation => 2
  | .inService => 3
  | .quarantine => 4

/-- The thirteen stream counters, four bytes each, in the order of section 2.11 (R134). -/
def StreamCounters.bytes (c : StreamCounters) : List Byte :=
  be32 c.delivered ++ be32 c.rescued ++ be32 c.placeholders ++ be32 c.suppressed ++ be32 c.gapEvents ++
    be32 c.lostSequences ++ be32 c.lateDuplicates ++ be32 c.outOfWindow ++ be32 c.resyncs ++ be32 c.strayCopies ++
    be32 c.foreignCopies ++ be32 c.noBufferDrops ++ be32 c.undeliverable

/-- The nine feed counters, four bytes each, in the order of section 5.6 (R136). -/
def FeedCounters.bytes (c : FeedCounters) : List Byte :=
  be32 c.valid ++ be32 c.errored ++ be32 c.unknownTag ++ be32 c.misdirected ++ be32 c.unusableDrops ++
    be32 c.windowsAccepted ++ be32 c.windowsNeutral ++ be32 c.windowsRejected ++ be32 c.quarantines

end Sys2Proof.Machine
end

