-- ==== Sys2Proof/Machine/Ops.lean ====
section
/-! DEFINITION. The shared operations over the whole state: the live bank, raising notices, latches, buffers freed
outside the merge engine, placing replies, and the counters of feeds. -/

namespace Sys2Proof.Machine

/-- A command's answer. -/
abbrev Answer := Host.Outcome State Fault Refusal

/-! ### Banks (R15) -/

/-- The bank that is live (R15). -/
def State.liveBank (s : State) : Bank :=
  match s.live with
  | .a => s.bankA
  | .b => s.bankB

/-- The bank that is standby (R15). -/
def State.standbyBank (s : State) : Bank :=
  match s.live with
  | .a => s.bankB
  | .b => s.bankA

/-- The state with another standby bank (R15). -/
def State.setStandby (s : State) (b : Bank) : State :=
  match s.live with
  | .a => { s with bankB := b }
  | .b => { s with bankA := b }

/-- The other bank's name. -/
def BankId.other : BankId → BankId
  | .a => .b
  | .b => .a

/-- The live entry of a slot, absent when the slot is EMPTY (R3). -/
def State.liveEntry (s : State) (i : Slot) : Option Entry := rd s.liveBank.slots i

/-- The live entry of a slot when the slot is ENABLED (R3). -/
def State.enabledEntry (s : State) (i : Slot) : Option Entry := (s.liveEntry i).filter (·.enabled)

/-- Part time: 32 bits of the microseconds since power-on reset (R2). -/
def State.partTime (s : State) : Time := partTimeOf s.elapsed

/-! ### Notices and latches -/

/-- Notices raised by an event, in the order its rules raise them, reach the notice unit (R158). -/
def State.raiseAll (s : State) (ns : List Notice) : State :=
  { s with notices := { s.notices with raised := s.notices.raised ++ ns } }

/-- One notice raised. -/
def State.raise (s : State) (n : Notice) : State := s.raiseAll [n]

/-- A feed latch set (R88, R164). -/
def State.setFeedLatch (s : State) (f : Feed) : State := { s with feedLatches := wr s.feedLatches f true }

/-! ### Monitors and ports -/

/-- The state with another record of one monitor. -/
def State.setMonitor (s : State) (f : Feed) (m : Monitor) : State := { s with monitors := wr s.monitors f m }

/-- The state with another record of one port. -/
def State.setPort (s : State) (f : Feed) (p : Port) : State := { s with ports := wr s.ports f p }

/-- The state with the counters of one feed changed. -/
def State.countFeed (s : State) (f : Feed) (g : FeedCounters → FeedCounters) : State :=
  s.setMonitor f { rd s.monitors f with counters := g (rd s.monitors f).counters }

/-! ### Runtime records -/

/-- The state with another runtime record of one slot. -/
def State.setRuntime (s : State) (i : Slot) (r : Runtime) : State := { s with runtimes := wr s.runtimes i r }

/-- Number of held entries over all streams (R107). -/
def State.heldEntries (s : State) : Nat := (allSlots.map fun i => (rd s.runtimes i).hold.length).sum

/-! ### Buffers -/

/-- Data frames in transmission: 1 while the transmitter sends one, and 0 otherwise (R107). -/
def Transmitter.dataFrames : Transmitter → Nat
  | .idle => 0
  | .data _ => 1
  | .control _ => 0

/-- Notice frames in transmission (R115). -/
def Transmitter.noticeFrames : Transmitter → Nat
  | .idle => 0
  | .data _ => 0
  | .control f => if f.kind = .notice then 1 else 0

/-- The pressure flag tested after frees, with the notice it may raise (R110). -/
def State.testPool (s : State) : State :=
  { s with pool := s.pool.tested.1 }.raiseAll s.pool.tested.2

/-- Buffers freed and the pressure flag then tested once (R109, R110). With no buffer freed nothing is tested
(log 22). -/
def State.freeBuffers (s : State) (n : Nat) : State :=
  if n = 0 then s else { s with pool := { s.pool with free := s.pool.free + n } }.testPool

/-! ### Replies and the control queue (R112) -/

/-- Number of notice frames in a list of control frames (R112). -/
def noticeFrames (q : List Frame) : Nat := q.countP fun f => f.kind == .notice

/-- A reply handed to the delivery port: discarded while the link is down (R116); otherwise placed at the back of
the control queue when it has a place and no reply waits, and else behind the replies that wait (R112). -/
def State.placeReply (s : State) (r : Reply) : State :=
  if !s.delivery.linkUp then s
  else if s.delivery.controlQueue.length < Config.controlPlaces && s.delivery.replyWait.isEmpty then
    { s with delivery := { s.delivery with controlQueue := s.delivery.controlQueue ++ [replyFrame r] } }
  else { s with delivery := { s.delivery with replyWait := s.delivery.replyWait ++ [replyFrame r] } }

end Sys2Proof.Machine
end

