-- ==== Sys2Proof/Machine/DeliveryPort.lean ====
section
/-! DEFINITION. The delivery port's events (sections 6.3 and 7): frames received, transmissions, the reply wait, and
the delivery link going down and coming up. -/

namespace Sys2Proof.Machine

/-! ### Reception (R100, R120) -/

/-- A valid frame carries no command: its kind is not COMMAND, its tag is not 0xFFFF, or its payload is shorter than
4 or longer than 236 bytes (R100 row 2). -/
def foreignFrame (bytes : List Byte) : Bool :=
  frameKindByte bytes != FrameKind.command.code || frameTag bytes != Config.managementTag ||
    payloadLength bytes < 4 || 236 < payloadLength bytes

/-- A command passed to the inbox: it joins the back, or at a full inbox it is discarded, counted, and
INBOX_OVERFLOW is raised (R120). -/
def State.inboxAccept (s : State) (c : Command) : State :=
  if s.inbox.length < Config.inboxPlaces then { s with inbox := s.inbox ++ [c] }
  else { s with inboxOverflows := satInc s.inboxOverflows }.raise (partNotice .inboxOverflow)

/-- The classification of a finished frame on the delivery link (R100). -/
def State.deliveryClassify (s : State) (bytes : List Byte) : State :=
  if frameErrored bytes then { s with delivery := { s.delivery with errored := satInc s.delivery.errored } }
  else if foreignFrame bytes then { s with delivery := { s.delivery with foreign := satInc s.delivery.foreign } }
  else s.inboxAccept (commandOfPayload (framePayload bytes))

/-- DELIVERY_FRAME_RECEIVED: the frame is what the receive store holds followed by `bytes`, the rest of it (log 12);
the store is then free. -/
def State.deliveryFrameReceived (s : State) (bytes : List Byte) : State :=
  { s with delivery := { s.delivery with receiveStore := [] } }.deliveryClassify (s.delivery.receiveStore ++ bytes)

/-- DELIVERY_FRAME_RECEIVED (R100). -/
def execDeliveryFrameReceived (bytes : List Byte) (s : State) : Answer := .next (s.deliveryFrameReceived bytes)

/-! ### The delivery link (R115, R117) -/

/-- DELIVERY_LINK_DOWN (R115). -/
def State.deliveryLinkDown (s : State) : State :=
  let dataFrames := s.dataQueue.length + s.delivery.transmitter.dataFrames
  let lostNotices := noticeFrames s.delivery.controlQueue + s.delivery.transmitter.noticeFrames
  State.freeBuffers { s with
    dataQueue := []
    delivery := { s.delivery with
      linkUp := false
      receiveStore := []
      controlQueue := []
      replyWait := []
      transmitter := .idle
      dataRun := 0
      flushed := satAdd s.delivery.flushed dataFrames }
    notices := { s.notices with lost := satAdd16 s.notices.lost lostNotices } } dataFrames

/-- DELIVERY_LINK_DOWN (R115). -/
def execDeliveryLinkDown (s : State) : Answer := .next s.deliveryLinkDown

/-- DELIVERY_LINK_UP (R117). -/
def State.deliveryLinkUp (s : State) : State := { s with delivery := { s.delivery with linkUp := true } }

/-- DELIVERY_LINK_UP (R117). -/
def execDeliveryLinkUp (s : State) : Answer := .next s.deliveryLinkUp

/-! ### The arbiter and the transmitter (R113, R114) -/

/-- The data queue is served: its front frame starts and the data run rises, held at 4 (R113). -/
def State.serveData (s : State) (f : Frame) (rest : List Frame) : State :=
  { s with
    dataQueue := rest
    delivery := { s.delivery with
      transmitter := .data f
      dataRun := min (s.delivery.dataRun + 1) Config.dataRunMax } }

/-- The control queue is served: its front frame starts and the data run is 0 (R113). -/
def State.serveControl (s : State) (f : Frame) (rest : List Frame) : State :=
  { s with delivery := { s.delivery with transmitter := .control f, controlQueue := rest, dataRun := 0 } }

/-- TRANSMISSION_START: with the transmitter idle and the link up, the arbiter serves a queue that holds a frame
(R113); and else nothing starts. -/
def State.transmissionStart (s : State) : State :=
  if s.delivery.linkUp && s.delivery.transmitter == .idle then
    match s.dataQueue, s.delivery.controlQueue with
    | [], [] => s
    | f :: rest, [] => s.serveData f rest
    | [], g :: rest => s.serveControl g rest
    | f :: rest, g :: crest =>
      if s.delivery.dataRun < Config.dataRunMax then s.serveData f rest else s.serveControl g crest
  else s

/-- TRANSMISSION_START (R113). -/
def execTransmissionStart (s : State) : Answer := .next s.transmissionStart

/-- TRANSMISSION_COMPLETE: the frame has been sent, a data frame's buffer is freed, and the transmitter is idle
(R114); with no transmission in progress nothing completes. -/
def State.transmissionComplete (s : State) : State :=
  State.freeBuffers { s with delivery := { s.delivery with transmitter := .idle } } s.delivery.transmitter.dataFrames

/-- TRANSMISSION_COMPLETE (R114). -/
def execTransmissionComplete (s : State) : Answer := .next s.transmissionComplete

/-- REPLY_WAIT_ADMIT: the reply at the front of the reply wait is admitted to the control queue when it has a place
(R112); and else nothing is admitted. -/
def State.replyWaitAdmit (s : State) : State :=
  match s.delivery.replyWait with
  | [] => s
  | r :: rest =>
    if s.delivery.controlQueue.length < Config.controlPlaces then
      { s with delivery := { s.delivery with
          controlQueue := s.delivery.controlQueue ++ [r]
          replyWait := rest } }
    else s

/-- REPLY_WAIT_ADMIT (R112). -/
def execReplyWaitAdmit (s : State) : Answer := .next s.replyWaitAdmit

end Sys2Proof.Machine
end

