-- ==== Sys2Proof/Machine/FeedHealth.lean ====
section
/-! DEFINITION. Feed ports and feed monitors (sections 5 and 6.2): frames received, link events, windows, verdicts,
usability and settings. -/

namespace Sys2Proof.Machine

/-! ### Usability (R87, R88) -/

/-- The usability a monitor's state, link and advisory setting call for (R87). -/
def Monitor.usability (m : Monitor) : Bool :=
  m.link && m.state != .disabled && m.state != .down && (m.current.advisory || m.state == .inService)

/-- A monitor's new record takes effect; when its usability changes, the effects of R88 follow in order: the new
value is published, a feed event is sent, and the latch is set with FEED_UNUSABLE and `cause`, or FEED_USABLE is
raised. -/
def State.publish (s : State) (f : Feed) (m : Monitor) (cause : UnusableCause) : State :=
  let t := s.setMonitor f { m with usable := m.usability }
  if (rd s.monitors f).usable = m.usability then t
  else
    let u := { t with feedEvents := wr t.feedEvents f (rd t.feedEvents f + 1) }
    if m.usability then u.raise ⟨.feedUsable, .feed f, Config.managementTag, 0⟩
    else (u.setFeedLatch f).raise ⟨.feedUnusable, .feed f, Config.managementTag, cause.code ++ (0 : Byte)⟩

/-! ### Windows and settings (R80, R89) -/

/-- A run clamped below its new count when the count has changed (R89). -/
def clampRun (old new run : Nat) : Nat := if old = new then run else min run (new - 1)

/-- The pending settings, if any, adopted as current, with the clamp (R89). -/
def Monitor.adopt (m : Monitor) : Monitor :=
  match m.pending with
  | none => m
  | some p =>
    { m with
      current := p
      pending := none
      acceptedRun := clampRun m.current.qualify p.qualify m.acceptedRun
      rejectTally := clampRun m.current.disqualify p.disqualify m.rejectTally }

/-- A window started at the moment `t` (R80): the pending settings adopted, V and E at 0, and the expiry one window
length later. -/
def Monitor.startWindow (t : Moment) (m : Monitor) : Monitor :=
  { m.adopt with window := some { expiry := after t m.adopt.current.windowLength, valid := 0, errored := 0 } }

/-- A window runs in PROBATION, IN_SERVICE and QUARANTINE (R78, R84). -/
def FeedState.runsWindow (st : FeedState) : Bool := st == .probation || st == .inService || st == .quarantine

/-! ### Frames received on a feed (R81, R97 to R99) -/

/-- A finished frame reported to the monitor as valid or errored (R81). -/
def Monitor.report (m : Monitor) (errored : Bool) : Monitor :=
  { m with
    window := m.window.map fun w =>
      if errored then { w with errored := satAdd16 w.errored 1 } else { w with valid := satAdd16 w.valid 1 }
    counters :=
      if errored then { m.counters with errored := satInc m.counters.errored }
      else { m.counters with valid := satInc m.counters.valid } }

/-- A valid frame is misdirected: its kind is not SAMPLE or its tag is 0xFFFF (R98 row 2). -/
def misdirected (bytes : List Byte) : Bool :=
  frameKindByte bytes != FrameKind.sample.code || frameTag bytes == Config.managementTag

/-- The classification of a finished frame on a feed that is not DISABLED (R98). -/
def State.classify (s : State) (f : Feed) (bytes : List Byte) : State :=
  if frameErrored bytes then s.setMonitor f ((rd s.monitors f).report true)
  else
    let t := s.setMonitor f ((rd s.monitors f).report false)
    if misdirected bytes then t.countFeed f fun k => { k with misdirected := satInc k.misdirected }
    else if !(rd t.monitors f).usable then t.countFeed f fun k => { k with unusableDrops := satInc k.unusableDrops }
    else t.setPort f { rd t.ports f with offered := (rd t.ports f).offered ++ [copyOfFrame f bytes] }

/-- FEED_FRAME_RECEIVED: the frame is what the receive store holds followed by `bytes`, the rest of it (log 12); it
is classified by R98 unless the feed is DISABLED, and the store is then free (R97). -/
def State.feedFrameReceived (s : State) (f : Feed) (bytes : List Byte) : State :=
  let t := s.setPort f { rd s.ports f with receiveStore := [] }
  if (rd s.monitors f).state = .disabled then t else t.classify f ((rd s.ports f).receiveStore ++ bytes)

/-- FEED_FRAME_RECEIVED (R98). -/
def execFeedFrameReceived (feed : Feed) (bytes : List Byte) (s : State) : Answer :=
  .next (s.feedFrameReceived feed bytes)

/-! ### Link events (R85, R86) -/

/-- The monitor's record at a link-down event (R85). -/
def Monitor.linkDown (m : Monitor) : Monitor :=
  if m.state = .disabled then { m with link := false }
  else ({ m with link := false, state := .down, window := none, acceptedRun := 0, rejectTally := 0 } : Monitor).adopt

/-- FEED_LINK_DOWN (R85): the frame in the receive store is abandoned uncounted. -/
def State.feedLinkDown (s : State) (f : Feed) : State :=
  (s.setPort f { rd s.ports f with receiveStore := [] }).publish f (rd s.monitors f).linkDown .linkDown

/-- FEED_LINK_DOWN (R85). -/
def execFeedLinkDown (feed : Feed) (s : State) : Answer := .next (s.feedLinkDown feed)

/-- The monitor's record at a link-up event taken at the moment `now` (R86). -/
def Monitor.linkUp (now : Moment) (m : Monitor) : Monitor :=
  if m.state = .down then
    ({ m with link := true, state := .probation, acceptedRun := 0, rejectTally := 0 } : Monitor).startWindow now
  else { m with link := true }

/-- FEED_LINK_UP (R86). -/
def State.feedLinkUp (s : State) (f : Feed) : State :=
  s.publish f ((rd s.monitors f).linkUp s.elapsed) .linkDown

/-- FEED_LINK_UP (R86). -/
def execFeedLinkUp (feed : Feed) (s : State) : Answer := .next (s.feedLinkUp feed)

/-! ### Window expiry (R80, R82 to R84) -/

/-- The verdicts (R82). -/
inductive Verdict where
  | accepted
  | neutral
  | rejected
  deriving DecidableEq, Repr

/-- The verdict on a window under settings `c`, in the order of the table of R82. -/
def verdict (c : Settings) (w : Window) : Verdict :=
  if c.rejectMargin < w.errored.toNat ∨ w.valid.toNat < c.minValid then .rejected
  else if w.errored.toNat ≤ c.acceptMargin then .accepted
  else .neutral

/-- The runs and counters after a verdict (R83). -/
def Monitor.judged (m : Monitor) : Verdict → Monitor
  | .accepted =>
    { m with
      acceptedRun := min (m.acceptedRun + 1) 15
      rejectTally := 0
      counters := { m.counters with windowsAccepted := satInc m.counters.windowsAccepted } }
  | .neutral =>
    { m with
      acceptedRun := 0
      counters := { m.counters with windowsNeutral := satInc m.counters.windowsNeutral } }
  | .rejected =>
    { m with
      acceptedRun := 0
      rejectTally := min (m.rejectTally + 1) 15
      counters := { m.counters with windowsRejected := satInc m.counters.windowsRejected } }

/-- The transition the runs call for after a verdict (R84). -/
def Monitor.transition (m : Monitor) : Monitor :=
  if (m.state = .probation ∨ m.state = .quarantine) ∧ m.current.qualify ≤ m.acceptedRun then
    { m with state := .inService }
  else if m.state = .inService ∧ m.current.disqualify ≤ m.rejectTally then
    { m with
      state := .quarantine
      counters := { m.counters with quarantines := satInc m.counters.quarantines } }
  else m

/-- WINDOW_EXPIRY (R80): verdict, runs and counters, transition, usability, and the next window's start at the
expiry of this one. With no running window that has reached its expiry, the expiry does not occur. -/
def State.windowExpiry (s : State) (f : Feed) : State :=
  match (rd s.monitors f).window with
  | none => s
  | some w =>
    if reached s.elapsed w.expiry then
      let t := s.publish f ((rd s.monitors f).judged (verdict (rd s.monitors f).current w)).transition .quarantine
      t.setMonitor f ((rd t.monitors f).startWindow w.expiry)
    else s

/-- WINDOW_EXPIRY (R80). -/
def execWindowExpiry (feed : Feed) (s : State) : Answer := .next (s.windowExpiry feed)

/-! ### Settings (R89, R90) -/

/-- The monitor's record after a SET_FEED with settings `p` at the moment `now`: they become pending, advisory and
disabled act at once (log 8), and with no window running they are adopted at once (R89, R90). -/
def Monitor.set (now : Moment) (p : Settings) (m : Monitor) : Monitor :=
  let w := { m with
    pending := some p
    current := { m.current with advisory := p.advisory, disabled := p.disabled } }
  if p.disabled && !m.current.disabled then
    ({ w with state := .disabled, window := none, acceptedRun := 0, rejectTally := 0 } : Monitor).adopt
  else if !p.disabled && m.current.disabled then
    if w.link then ({ w.adopt with state := .probation } : Monitor).startWindow now
    else { w.adopt with state := .down }
  else if w.window.isSome then w
  else w.adopt

/-- The cause of a feed's becoming unusable at a SET_FEED with settings `p` (R88). DESIGN CHOICE (log 28): a SET_FEED that
disables a feed and clears its advisory at once meets the rows of both causes, and reports disable. -/
def setFeedCause (p : Settings) : UnusableCause := if p.disabled then .disable else .quarantine

/-- The monitor takes a SET_FEED as one event (R138): a disable abandons the frame in the receive store (R90). -/
def State.applySettings (s : State) (f : Feed) (p : Settings) : State :=
  let t := if p.disabled && !(rd s.monitors f).current.disabled then
      s.setPort f { rd s.ports f with receiveStore := [] } else s
  t.publish f ((rd s.monitors f).set s.elapsed p) (setFeedCause p)

/-- The monitor's record at the restart of a RESET_PART of level CLEAR (R92). The feed counters are cleared by a
later step of the reset (R144). -/
def Monitor.restart (now : Moment) (m : Monitor) : Monitor :=
  let w := { Monitor.reset with link := m.link, counters := m.counters }
  if m.link then ({ w with state := .probation } : Monitor).startWindow now else w

/-- One monitor's restart at a RESET_PART of level CLEAR: usability changes with cause reset, and the feed latch is
set (R92). -/
def State.restartMonitor (s : State) (f : Feed) : State :=
  (s.publish f ((rd s.monitors f).restart s.elapsed) .reset).setFeedLatch f

end Sys2Proof.Machine
end

