-- ==== Sys2Proof/Machine/NoticeAlarm.lean ====
section
/-! DEFINITION. The notice unit's events (section 11): a raised notice taken, a record moved into the control queue, and
the refill expiry. -/

namespace Sys2Proof.Machine

/-- A record matches a notice: the same kind and the same subject (R159). -/
def NoticeRecord.matchesNotice (r : NoticeRecord) (n : Notice) : Bool := r.kind == n.kind && r.subject == n.subject

/-- A notice coalesced into a record at part time `now` (R159). -/
def NoticeRecord.coalesce (now : Time) (r : NoticeRecord) : NoticeRecord :=
  { r with repeats := min (r.repeats + 1) 255, last := now }

/-- The notice queue with a notice coalesced into the record that matches it (R159). -/
def coalesceInto (now : Time) (n : Notice) (queue : List NoticeRecord) : List NoticeRecord :=
  queue.map fun r => if r.matchesNotice n then r.coalesce now else r

/-- The tag of a record created from a notice now: for a stream subject that of the slot's live entry, and else 0xFFFF
(R158, R106). For a slot that is EMPTY by then the notice keeps the tag it was raised with (R58, R159). DEDUCED (log 5). -/
def State.recordTag (s : State) (n : Notice) : Tag :=
  match n.subject with
  | .stream i => ((s.liveEntry i).map (·.tag)).getD n.tag
  | .part => Config.managementTag
  | .feed _ => Config.managementTag

/-- The notice unit takes a notice that its mask lets through: coalesced, appended or lost (R159 steps 2 to 4). -/
def State.takeNotice (s : State) (n : Notice) : State :=
  if s.notices.queue.any (·.matchesNotice n) then
    { s with notices := { s.notices with queue := coalesceInto s.partTime n s.notices.queue } }
  else if s.notices.queue.length < Config.noticeQueuePlaces then
    { s with notices := { s.notices with
        queue := s.notices.queue ++
          [{ kind := n.kind, subject := n.subject, tag := s.recordTag n, repeats := 1, first := s.partTime,
             last := s.partTime, detail := n.detail }] } }
  else { s with notices := { s.notices with lost := satAdd16 s.notices.lost 1 } }

/-- NOTICE_RAISE: the unit takes the oldest notice that waits (R158, R159): one from before the latest setting of the
mask, which its own mask has let through (R139), and else one that the present mask keeps or leaves not raised (R159 step
1); with none nothing happens. -/
def State.noticeRaise (s : State) : State :=
  match s.notices.earlier, s.notices.raised with
  | n :: rest, _ => { s with notices := { s.notices with earlier := rest } }.takeNotice n
  | [], [] => s
  | [], n :: rest =>
    let t := { s with notices := { s.notices with raised := rest } }
    if maskAllows s.notices.mask n.kind then t.takeNotice n else t

/-- NOTICE_RAISE (R159). -/
def execNoticeRaise (s : State) : Answer := .next s.noticeRaise

/-- The conditions of a move that do not concern the notice queue (R161). -/
def State.noticeMayMove (s : State) : Bool :=
  decide (1 ≤ s.notices.credits) && s.delivery.linkUp &&
    decide (s.delivery.controlQueue.length < Config.controlPlaces) &&
    decide (noticeFrames s.delivery.controlQueue < Config.noticePlaces) && s.delivery.replyWait.isEmpty

/-- NOTICE_MOVE: the front record becomes a notice frame at the back of the control queue, at the cost of one credit,
carrying the pending lost count, which is then 0 (R161); when a condition fails nothing moves. -/
def State.noticeMove (s : State) : State :=
  match s.notices.queue with
  | [] => s
  | r :: rest =>
    if s.noticeMayMove then
      { s with
        notices := { s.notices with queue := rest, credits := s.notices.credits - 1, lost := 0 }
        delivery := { s.delivery with
          controlQueue := s.delivery.controlQueue ++ [noticeFrame s.notices.lost r] } }
    else s

/-- NOTICE_MOVE (R161). -/
def execNoticeMove (s : State) : Answer := .next s.noticeMove

/-- REFILL_EXPIRY: one credit is added below the credit maximum, and the next expiry follows one interval later
(R162); before the timer's expiry nothing happens. -/
def State.refillExpiry (s : State) : State :=
  if reached s.elapsed s.notices.refillExpiry then
    { s with notices := { s.notices with
        credits := if s.notices.credits < s.notices.creditMax then s.notices.credits + 1 else s.notices.credits
        refillExpiry := after s.notices.refillExpiry (s.notices.refillInterval * 1000) } }
  else s

/-- REFILL_EXPIRY (R162). -/
def execRefillExpiry (s : State) : Answer := .next s.refillExpiry

end Sys2Proof.Machine
end

