-- ==== Sys2Proof/Machine/Stream.lean ====
section
/-! DEFINITION. The shared operations of one stream's event: what the merge engine reads and changes in it, buffer
claims, releases, declarations of loss, and the selector. -/

namespace Sys2Proof.Machine

/-- What the merge engine reads during one event of one stream: the slot, its live entry (R15), the moment, the
usability of the feeds (R63, R87), whether the delivery link is up (R116), and whether the event tests the pressure
flag at each free or leaves the test to its end (the swap and RESTART: R152, R118). -/
structure StreamCtx where
  slot : Slot
  entry : Entry
  now : Moment
  usable : Feed → Bool
  linkUp : Bool
  deferTest : Bool

/-- What the merge engine may change during one event of one stream: the runtime record, the pool, the data queue,
the slot's alarm latch and the raised notices. `released` says that the event has released a real copy (R32), and
`switched` that it has made a switch (R74); both start as no and end with the event. -/
structure StreamView where
  rt : Runtime
  pool : Pool
  dataQueue : List Frame
  latch : Bool
  raised : List Notice
  released : Bool
  switched : Bool
  deriving DecidableEq, Repr

/-- The record of the view changed. -/
def StreamView.mapRt (v : StreamView) (g : Runtime → Runtime) : StreamView := { v with rt := g v.rt }

/-- The stream counters changed. -/
def StreamView.count (v : StreamView) (g : StreamCounters → StreamCounters) : StreamView :=
  v.mapRt fun r => { r with counters := g r.counters }

/-- A notice about the stream raised. -/
def StreamView.raise (c : StreamCtx) (kind : NoticeKind) (detail : BitVec 16) (v : StreamView) : StreamView :=
  { v with raised := v.raised ++ [⟨kind, .stream c.slot, c.entry.tag, detail⟩] }

/-- The stream alarm latch set (R164). -/
def StreamView.setLatch (v : StreamView) : StreamView := { v with latch := true }

/-! ### Buffers (R26, R108 to R110) -/

/-- One free buffer taken by a granted claim (R108). -/
def StreamView.takeBuffer (v : StreamView) : StreamView := { v with pool := { v.pool with free := v.pool.free - 1 } }

/-- A release claim would be granted (R108). -/
def StreamView.releaseGranted (v : StreamView) : Bool := decide (1 ≤ v.pool.free)

/-- A hold claim would be granted (R108). -/
def StreamView.holdGranted (v : StreamView) : Bool := decide (Config.holdReserve < v.pool.free)

/-- A refused claim reported to the pressure flag (R110). -/
def StreamView.noteRefusal (v : StreamView) : StreamView :=
  { v with pool := v.pool.refused.1, raised := v.raised ++ v.pool.refused.2 }

/-- A copy refused a buffer: a no-buffer drop (R26). -/
def StreamView.noBufferDrop (v : StreamView) : StreamView :=
  v.noteRefusal.count fun k => { k with noBufferDrops := satInc k.noBufferDrops }

/-- Buffers freed within the event, and the pressure flag tested once after them (R109, R110), unless the event
leaves the test to its end. -/
def StreamView.freeBuffers (c : StreamCtx) (n : Nat) (v : StreamView) : StreamView :=
  if n = 0 then v
  else if c.deferTest then { v with pool := { v.pool with free := v.pool.free + n } }
  else
    { v with
      pool := (Pool.tested { v.pool with free := v.pool.free + n }).1
      raised := v.raised ++ (Pool.tested { v.pool with free := v.pool.free + n }).2 }

/-- The hold list flushed and every held buffer freed (R22, R109). -/
def StreamView.flushHold (c : StreamCtx) (v : StreamView) : StreamView :=
  (v.mapRt fun r => { r with hold := [] }).freeBuffers c v.rt.hold.length

/-! ### Feeds and the selector (R25, R62, R63) -/

/-- The best usable feed: the first feed of the list that is usable (R63). -/
def StreamCtx.best (c : StreamCtx) : Option Feed := c.entry.feeds.find? c.usable

/-- The active feed of the stream, absent without a selector part (R62). -/
def Runtime.active (r : Runtime) : Option Feed := r.selector.bind (·.active)

/-- A copy or held entry from feed `f` is deliverable: the mode is FIRST, or the feed is the active feed (R25). -/
def StreamView.deliverable (c : StreamCtx) (v : StreamView) (f : Feed) : Bool :=
  match c.entry.mode with
  | .first => true
  | .preferred _ => v.rt.active == some f

/-- The selector changed, where the stream has one. -/
def StreamView.mapSelector (v : StreamView) (g : Selector → Selector) : StreamView :=
  v.mapRt fun r => { r with selector := r.selector.map g }

/-- The active feed is present, listed and usable. DEDUCED (log 20): a feed that is not listed counts as not
usable in every evaluation, as R75 states for a retune. -/
def StreamCtx.activeUsable (c : StreamCtx) (a : Option Feed) : Bool :=
  match a with
  | none => false
  | some f => c.entry.feeds.contains f && c.usable f

/-- A change of the active feed to `dest` with selector state `st` and hold-off timer `timer`. When the active feed
differs from the one before, it is a switch with the effects of R73. -/
def StreamView.setActive (c : StreamCtx) (dest : Option Feed) (st : SelectorState) (timer : Option Moment)
    (v : StreamView) : StreamView :=
  if v.rt.active = dest then v.mapSelector fun q => { q with state := st, holdOff := timer }
  else
    { (v.mapSelector fun q => { q with state := st, holdOff := timer, active := dest, rescueRun := none }).raise c
        .activeSwitch (feedOrNone v.rt.active ++ feedOrNone dest) with switched := true }

/-- The immediate switch of R69: to the best usable feed, or to an absent active feed. -/
def StreamView.immediateSwitch (c : StreamCtx) (v : StreamView) : StreamView :=
  match c.best with
  | some f => v.setActive c (some f) .primary none
  | none => v.setActive c none .noFeed none

/-- The expiry of a hold-off timer started now under the selection part `p` (R71). -/
def StreamCtx.holdOffExpiry (c : StreamCtx) (p : SelectionPart) : Moment := after c.now (p.holdOff * 1000)

/-- The state and hold-off timer of a stream whose active feed is usable (R70, R72), from whether a better feed is
usable, the selection part, and the running timer. With hold-off 0 no timer is started; what then happens differs
between a review (R70) and a rescue switch (R72), and the caller says it. -/
def StreamCtx.settled (c : StreamCtx) (p : SelectionPart) (better : Bool) (timer : Option Moment) :
    SelectorState × Option Moment :=
  if !better then (.primary, none)
  else if !p.revertive then (.backup, none)
  else if timer.isSome then (.revertWait, timer)
  else if p.holdOff = 0 then (.backup, none)
  else (.revertWait, some (c.holdOffExpiry p))

/-- The evaluation of a review (R69, R70): an immediate switch when the active feed is absent or not usable; the
return at once when the entry is revertive with hold-off 0 and no timer runs; and else the table of R70. -/
def StreamView.evaluate (c : StreamCtx) (p : SelectionPart) (v : StreamView) : StreamView :=
  match v.rt.selector with
  | none => v
  | some q =>
    if !c.activeUsable q.active then v.immediateSwitch c
    else if c.best != q.active && p.revertive && q.holdOff.isNone && p.holdOff == 0 then v.immediateSwitch c
    else
      v.setActive c q.active (c.settled p (c.best != q.active) q.holdOff).1
        (c.settled p (c.best != q.active) q.holdOff).2

/-- A rescue switch to feed `g` (R72). -/
def StreamView.rescueSwitch (c : StreamCtx) (p : SelectionPart) (g : Feed) (v : StreamView) : StreamView :=
  v.setActive c (some g) (c.settled p (c.best != some g) (v.rt.selector.bind (·.holdOff))).1
    (c.settled p (c.best != some g) (v.rt.selector.bind (·.holdOff))).2

/-- The rescue run after one more rescue by feed `g` (R72). -/
def RescueRun.next (run : Option RescueRun) (g : Feed) : RescueRun :=
  match run with
  | some r => if r.feed = g then { r with count := r.count + 1 } else { feed := g, count := 1 }
  | none => { feed := g, count := 1 }

/-- A rescue by feed `g` reported to the selector: it counts when `g` is usable, and at the rescue threshold the
stream makes a rescue switch (R72). -/
def StreamView.reportRescue (c : StreamCtx) (g : Feed) (v : StreamView) : StreamView :=
  match c.entry.mode, v.rt.selector with
  | .preferred p, some q =>
    if !c.usable g then v
    else if (RescueRun.next q.rescueRun g).count = p.rescueThreshold then v.rescueSwitch c p g
    else v.mapSelector fun q => { q with rescueRun := some (RescueRun.next q.rescueRun g) }
  | _, _ => v

/-! ### Releases and declarations of loss (R27, R28) -/

/-- A released frame handed to the delivery port: it joins the data queue while the link is up (R111); while the
link is down it is discarded, its buffer freed, and it is counted as undeliverable (R116). -/
def StreamView.deliver (c : StreamCtx) (f : Frame) (v : StreamView) : StreamView :=
  if c.linkUp then { v with dataQueue := v.dataQueue ++ [f] }
  else (v.count fun k => { k with undeliverable := satInc k.undeliverable }).freeBuffers c 1

/-- A copy released from its buffer (R27): its frame with its marks, the counters, the placeholder run, and the
report to the selector. `resync` and `seek` say that the rule that releases it calls for that mark. -/
def StreamView.release (c : StreamCtx) (copy : Copy) (resync seek : Bool) (v : StreamView) : StreamView :=
  let rescue := !v.deliverable c copy.feed
  let v1 := (({ v with released := true }.mapRt fun r => { r with gapMark := false, placeholderRun := 0 }).count
    fun k => { k with delivered := satInc k.delivered
                      rescued := if rescue then satInc k.rescued else k.rescued }).deliver c
      (copyFrame copy rescue v.rt.gapMark resync seek)
  if rescue then v1.reportRescue c copy.feed else v1.mapSelector fun q => { q with rescueRun := none }

/-- NES incremented by 1 (R1). -/
def StreamView.advance (v : StreamView) : StreamView := v.mapRt fun r => { r with nes := r.nes.map (· + 1) }

/-- The sequences from NES up to `m` − 1 declared lost: one gap event when there is one or more of them, with its
counters, the gap mark, the latch and STREAM_GAP; NES is then `m` (R28). -/
def StreamView.declareLost (c : StreamCtx) (m : Seq) (v : StreamView) : StreamView :=
  match v.rt.nes with
  | none => v
  | some n =>
    if n = m then v
    else
      (((v.mapRt fun r => { r with nes := some m, gapMark := true }).count
        fun k => { k with gapEvents := satInc k.gapEvents
                          lostSequences := satAdd k.lostSequences (dist n m) }).setLatch).raise c
        .streamGap (BitVec.ofNat 16 (dist n m))

/-- The release run over the hold list `hold` (R31): while the head is NES, and deliverable or `anyFeed` (the second
form of R36 and R51), it is released without a claim and NES is incremented. -/
def StreamView.releaseRun (c : StreamCtx) (anyFeed : Bool) : List Copy → StreamView → StreamView
  | [], v => v
  | h :: rest, v =>
    if v.rt.nes = some h.seq ∧ (anyFeed = true ∨ v.deliverable c h.feed = true) then
      StreamView.releaseRun c anyFeed rest
        (((v.mapRt fun r => { r with hold := rest }).release c h false false).advance)
    else v

/-- The due timer armed `us` microseconds after `t` (R46). -/
def StreamView.arm (t : Moment) (us : Nat) (v : StreamView) : StreamView :=
  v.mapRt fun r => { r with due := some (after t us) }

/-- A stream in BRIDGING returns to TRACKING with STREAM_RECOVERED (R32, R51, R74). -/
def StreamView.recover (c : StreamCtx) (v : StreamView) : StreamView :=
  if v.rt.mergeState = .bridging then
    (v.mapRt fun r => { r with mergeState := .tracking }).raise c .streamRecovered 0
  else v

/-- The close of an arrival event that has released a real copy (R32). -/
def StreamView.closeArrival (c : StreamCtx) (v : StreamView) : StreamView :=
  ((v.arm c.now (c.entry.period + c.entry.slack)).mapRt fun r => { r with candidate := none }).recover c

/-- The re-examination of the hold list at the end of an event that made a switch (R74). -/
def StreamView.reexamine (c : StreamCtx) (v : StreamView) : StreamView :=
  match v.rt.hold with
  | [] => v
  | h :: _ =>
    if v.switched = true ∧ v.rt.nes = some h.seq ∧ v.deliverable c h.feed = true then
      (v.releaseRun c false v.rt.hold).closeArrival c
    else v

/-! ### The view of the state -/

/-- What the merge engine reads in an event of slot `i` under entry `e`. -/
def State.streamCtx (s : State) (i : Slot) (e : Entry) (deferTest : Bool) : StreamCtx :=
  { slot := i, entry := e, now := s.elapsed, usable := fun f => (rd s.monitors f).usable,
    linkUp := s.delivery.linkUp, deferTest := deferTest }

/-- What the merge engine may change in an event of slot `i`. -/
def State.streamView (s : State) (i : Slot) : StreamView :=
  { rt := rd s.runtimes i, pool := s.pool, dataQueue := s.dataQueue, latch := rd s.streamLatches i,
    raised := s.notices.raised, released := false, switched := false }

/-- The state with what an event of slot `i` has changed. -/
def State.putStream (s : State) (i : Slot) (v : StreamView) : State :=
  { s with
    runtimes := wr s.runtimes i v.rt
    pool := v.pool
    dataQueue := v.dataQueue
    streamLatches := wr s.streamLatches i v.latch
    notices := { s.notices with raised := v.raised } }

/-- One event of a stream whose live slot is ENABLED; for any other slot nothing happens. -/
def State.onStream (s : State) (i : Slot) (deferTest : Bool) (g : StreamCtx → StreamView → StreamView) : State :=
  match s.enabledEntry i with
  | some e => s.putStream i (g (s.streamCtx i e deferTest) (s.streamView i))
  | none => s

end Sys2Proof.Machine
end

