-- ==== Sys2Proof/Machine/Merge.lean ====
section
/-! DEFINITION. The merge engine's events: taking a copy and giving it its fate (section 2), the due expiry
(section 3), feed events, reviews and the hold-off expiry (section 4). -/

namespace Sys2Proof.Machine

/-! ### The fate of an admitted copy -/

/-- SEEKING: the first admitted copy is released with first after seek (R29). -/
def StreamView.arriveSeeking (c : StreamCtx) (copy : Copy) (v : StreamView) : StreamView :=
  if v.releaseGranted then
    ((v.takeBuffer.release c copy false true).mapRt fun r =>
      { r with nes := some (copy.seq + 1), mergeState := .tracking }).closeArrival c
  else v.noBufferDrop

/-- The resync candidate cleared (R40). -/
def StreamView.clearCandidate (v : StreamView) : StreamView := v.mapRt fun r => { r with candidate := none }

/-- A copy discarded as a late duplicate (R33, R34, R38). -/
def StreamView.lateDuplicate (v : StreamView) : StreamView :=
  v.count fun k => { k with lateDuplicates := satInc k.lateDuplicates }

/-- The hold list with a copy inserted in the position its distance from `n` gives it (R22, R35). -/
def insertHold (n : Seq) (copy : Copy) : List Copy → List Copy
  | [] => [copy]
  | h :: rest => if dist n copy.seq < dist n h.seq then copy :: h :: rest else h :: insertHold n copy rest

/-- A copy to be inserted in the hold list ahead of NES `n`, or as the fallback at distance 0: the hold claim, and
when it is granted the insertion, which clears the candidate (R33, R35, R37, R40). -/
def StreamView.hold (n : Seq) (copy : Copy) (v : StreamView) : StreamView :=
  if v.holdGranted then
    (v.takeBuffer.mapRt fun r => { r with hold := insertHold n copy r.hold }).clearCandidate
  else v.noBufferDrop

/-- The copy of NES released on a release claim, NES incremented, and the ordinary release run (R30, R37). The
event's close is the caller's. -/
def StreamView.releaseNext (c : StreamCtx) (copy : Copy) (v : StreamView) : StreamView :=
  if v.releaseGranted then
    let w := (v.takeBuffer.release c copy false false).advance
    w.releaseRun c false w.rt.hold
  else v.noBufferDrop

/-- The close of an arrival event that may have released a real copy (R32): with none released, the due timer is
left as it was. -/
def StreamView.closeIfReleased (c : StreamCtx) (v : StreamView) : StreamView :=
  if v.released then v.closeArrival c else v

/-- The reconsideration of the copy after a pressure release (R37). -/
def StreamView.reconsider (c : StreamCtx) (copy : Copy) (v : StreamView) : StreamView :=
  match v.rt.nes with
  | none => v
  | some n =>
    if copy.seq = n then
      if v.deliverable c copy.feed = true ∨ c.entry.holdLimit ≤ v.rt.hold.length then v.releaseNext c copy
      else v.hold n copy
    else v.hold n copy

/-- The sequence up to which a pressure release declares lost: the nearer of the copy's and the head's (R36). -/
def pressureMark (n : Seq) (copy : Copy) (hold : List Copy) : Seq :=
  match hold with
  | [] => copy.seq
  | h :: _ => if dist n h.seq < dist n copy.seq then h.seq else copy.seq

/-- Pressure release (R36) with the reconsideration and close of R37. -/
def StreamView.pressureRelease (c : StreamCtx) (n : Seq) (copy : Copy) (v : StreamView) : StreamView :=
  let w := v.declareLost c (pressureMark n copy v.rt.hold)
  ((w.releaseRun c true w.rt.hold).reconsider c copy).closeIfReleased c

/-- The hold list has a place under the entry's hold limit (R33, R35). -/
def StreamView.holdHasRoom (c : StreamCtx) (v : StreamView) : Bool := decide (v.rt.hold.length < c.entry.holdLimit)

/-- The head of the hold list is a fallback for NES `n` (R22). -/
def headIsFallback (n : Seq) (hold : List Copy) : Bool :=
  match hold with
  | [] => false
  | h :: _ => h.seq == n

/-- A fallback for NES discarded and its buffer freed (R30). -/
def StreamView.discardFallback (c : StreamCtx) (n : Seq) (v : StreamView) : StreamView :=
  if headIsFallback n v.rt.hold then (v.mapRt fun r => { r with hold := r.hold.tail }).freeBuffers c 1 else v

/-- A copy of NES, d = 0 (R30, R33). -/
def StreamView.arriveNext (c : StreamCtx) (n : Seq) (copy : Copy) (v : StreamView) : StreamView :=
  if v.deliverable c copy.feed then ((v.discardFallback c n).releaseNext c copy).closeIfReleased c
  else if headIsFallback n v.rt.hold then v.lateDuplicate.clearCandidate
  else if v.holdHasRoom c then v.hold n copy
  else v.pressureRelease c n copy

/-- A held entry replaced by a copy of the same sequence (R34). -/
def replaceHeld (copy : Copy) (hold : List Copy) : List Copy :=
  hold.map fun h => if h.seq = copy.seq then copy else h

/-- A copy ahead of NES by 1 to W (R34, R35). -/
def StreamView.arriveAhead (c : StreamCtx) (n : Seq) (copy : Copy) (v : StreamView) : StreamView :=
  match v.rt.hold.find? fun h => h.seq == copy.seq with
  | some h =>
    if v.deliverable c copy.feed && !v.deliverable c h.feed then
      (v.mapRt fun r => { r with hold := replaceHeld copy r.hold }).clearCandidate
    else v.lateDuplicate.clearCandidate
  | none => if v.holdHasRoom c then v.hold n copy else v.pressureRelease c n copy

/-- The resync candidate after a copy with sequence `s`, by the table of R39. -/
def Candidate.next (window : Nat) (cand : Option Candidate) (s : Seq) : Candidate :=
  match cand with
  | none => { seq := s, count := 1 }
  | some k =>
    if s = k.seq then k
    else if dist k.seq s ≤ window then { seq := s, count := k.count + 1 }
    else { seq := s, count := 1 }

/-- The resynchronisation of R41 on a copy, steps 1 to 5. The release claim is made first, as though the hold list
had been flushed (log 10). -/
def StreamView.resynchronise (c : StreamCtx) (copy : Copy) (v : StreamView) : StreamView :=
  if v.pool.free + v.rt.hold.length = 0 then v.noBufferDrop
  else
    let was := v.rt.mergeState
    let v1 := { v with
      rt := { v.rt with hold := [] }
      pool := { v.pool with free := v.pool.free + v.rt.hold.length - 1 } }
    let v2 := if v.rt.hold.length = 0 || c.deferTest then v1
      else { v1 with pool := v1.pool.tested.1, raised := v1.raised ++ v1.pool.tested.2 }
    let v3 := ((v2.mapRt fun r => { r with gapMark := false }).release c copy true false).mapRt fun r =>
      { r with nes := some (copy.seq + 1), mergeState := .tracking }
    let v4 := ((v3.count fun k => { k with resyncs := satInc k.resyncs }).setLatch).raise c .streamResync copy.seq
    let v5 := if was = .bridging ∨ was = .starved then v4.raise c .streamRecovered 0 else v4
    v5.closeArrival c

/-- An out-of-window copy, or a behind copy in STARVED: counted, applied to the resync candidate, and at the
threshold a resynchronisation (R39, R43). A refused claim leaves the candidate as it was (R41). -/
def StreamView.arriveOutOfWindow (c : StreamCtx) (copy : Copy) (v : StreamView) : StreamView :=
  let w := v.count fun k => { k with outOfWindow := satInc k.outOfWindow }
  let next := Candidate.next c.entry.window v.rt.candidate copy.seq
  if next.count = c.entry.resyncThreshold then w.resynchronise c copy
  else w.mapRt fun r => { r with candidate := some next }

/-- A copy taken in TRACKING or BRIDGING with NES `n` (R30 to R39). -/
def StreamView.arriveFollowing (c : StreamCtx) (n : Seq) (copy : Copy) (v : StreamView) : StreamView :=
  if dist n copy.seq = 0 then v.arriveNext c n copy
  else if behind (dist n copy.seq) then v.lateDuplicate
  else if dist n copy.seq ≤ c.entry.window then v.arriveAhead c n copy
  else v.arriveOutOfWindow c copy

/-- A copy taken in STARVED with NES `n` (R42, R43). -/
def StreamView.arriveStarved (c : StreamCtx) (n : Seq) (copy : Copy) (v : StreamView) : StreamView :=
  if behind (dist n copy.seq) then v.arriveOutOfWindow c copy
  else if v.releaseGranted then
    ((((v.takeBuffer.declareLost c copy.seq).release c copy false false).mapRt fun r =>
      { r with nes := some (copy.seq + 1), mergeState := .tracking }).raise c .streamRecovered 0).closeArrival c
  else v.noBufferDrop

/-- The fate of an admitted copy by the merge state and its distance (R24), then the re-examination of R74 when the
event made a switch. -/
def StreamView.arrive (c : StreamCtx) (copy : Copy) (v : StreamView) : StreamView :=
  match v.rt.mergeState, v.rt.nes with
  | .seeking, _ => (v.arriveSeeking c copy).reexamine c
  | .tracking, some n => (v.arriveFollowing c n copy).reexamine c
  | .bridging, some n => (v.arriveFollowing c n copy).reexamine c
  | .starved, some n => (v.arriveStarved c n copy).reexamine c
  | _, _ => v

/-- The admission checks of R24 and the fate of a copy whose tag maps to the stream. The first check's failure is
counted on the feed by the caller. -/
def StreamView.admitCopy (c : StreamCtx) (copy : Copy) (v : StreamView) : StreamView :=
  if !c.entry.feeds.contains copy.feed then v.count fun k => { k with strayCopies := satInc k.strayCopies }
  else if c.entry.origin.isSome && c.entry.origin != some copy.origin then
    (v.count fun k => { k with foreignCopies := satInc k.foreignCopies }).raise c .foreignCopy
      (feedByte copy.feed ++ copy.origin)
  else v.arrive c copy

/-- The slot a tag is mapped to in the live index (R17). -/
def State.lookup (s : State) (t : Tag) : Option Slot := (s.liveBank.index.find? fun m => m.1 == t).map (·.2)

/-- The merge engine takes a copy (R17, R24). -/
def State.takeCopy (s : State) (copy : Copy) : State :=
  match s.lookup copy.tag with
  | none => s.countFeed copy.feed fun k => { k with unknownTag := satInc k.unknownTag }
  | some i =>
    if !(rd s.monitors copy.feed).usable then
      s.countFeed copy.feed fun k => { k with unusableDrops := satInc k.unusableDrops }
    else s.onStream i false fun c v => v.admitCopy c copy

/-- COPY_TAKE: the oldest copy the port has offered is taken (R24, R99); with none offered nothing happens. -/
def State.copyTake (s : State) (f : Feed) : State :=
  match (rd s.ports f).offered with
  | [] => s
  | copy :: rest => (s.setPort f { rd s.ports f with offered := rest }).takeCopy copy

/-- COPY_TAKE (R24). -/
def execCopyTake (feed : Feed) (s : State) : Answer := .next (s.copyTake feed)

/-! ### The due expiry (section 3) -/

/-- The release of the hold list's head at a due expiry `x`: a fallback rescued (R49) or a gap declared up to the
head (R50), the release run in its second form, and the close (R51). -/
def StreamView.expireHeld (c : StreamCtx) (x : Moment) (h : Copy) (v : StreamView) : StreamView :=
  let w := v.declareLost c h.seq
  let was := v.rt.mergeState
  let v1 := ((w.releaseRun c true w.rt.hold).mapRt fun r => { r with mergeState := .tracking }).arm x
    (c.entry.period + c.entry.slack)
  if was = .bridging then v1.raise c .streamRecovered 0 else v1

/-- The close of a due expiry `x` that emitted or suppressed a placeholder (R55). -/
def StreamView.closeBridging (c : StreamCtx) (x : Moment) (v : StreamView) : StreamView :=
  let w := v.arm x c.entry.period
  if v.rt.mergeState = .tracking then
    ((w.mapRt fun r => { r with mergeState := .bridging }).setLatch).raise c .streamBridging 0
  else w

/-- A placeholder for NES `n` emitted on a granted release claim (R53, R54), or suppressed (R56). -/
def StreamView.placeholder (c : StreamCtx) (n : Seq) (v : StreamView) : StreamView :=
  if v.releaseGranted then
    (((v.takeBuffer.mapRt fun r => { r with gapMark := false, placeholderRun := r.placeholderRun + 1 }).deliver c
      (placeholderFrame c.entry n v.rt.gapMark)).count
        fun k => { k with placeholders := satInc k.placeholders }).advance
  else
    ((v.noteRefusal.declareLost c (n + 1)).count fun k => { k with suppressed := satInc k.suppressed }).mapRt
      fun r => { r with placeholderRun := r.placeholderRun + 1 }

/-- The stream enters STARVED (R57). -/
def StreamView.starve (c : StreamCtx) (v : StreamView) : StreamView :=
  ((v.mapRt fun r => { r with mergeState := .starved, due := none }).setLatch).raise c .streamStarved 0

/-- The due expiry `x` of a stream in TRACKING or BRIDGING with NES `n` (R48). -/
def StreamView.expireDue (c : StreamCtx) (x : Moment) (n : Seq) (v : StreamView) : StreamView :=
  match v.rt.hold with
  | h :: _ => (v.expireHeld c x h).reexamine c
  | [] =>
    if v.rt.placeholderRun < c.entry.placeholderLimit then (v.placeholder c n).closeBridging c x
    else v.starve c

/-- The due timer of a record in TRACKING or BRIDGING, with its NES (R21, R47). -/
def Runtime.dueTimer (r : Runtime) : Option (Moment × Seq) :=
  match r.mergeState, r.due, r.nes with
  | .tracking, some x, some n => some (x, n)
  | .bridging, some x, some n => some (x, n)
  | _, _, _ => none

/-- DUE_EXPIRY: with no armed timer that has reached its expiry, the expiry does not occur (R47, R48). -/
def State.dueExpiry (s : State) (i : Slot) : State :=
  match (rd s.runtimes i).dueTimer with
  | some (x, n) => if reached s.elapsed x then s.onStream i false fun c v => v.expireDue c x n else s
  | none => s

/-- DUE_EXPIRY (R48). -/
def execDueExpiry (slot : Slot) (s : State) : Answer := .next (s.dueExpiry slot)

/-! ### Feed events, reviews and the hold-off expiry (section 4) -/

/-- A runtime record marked for review, where it has a selector part (R67). -/
def Runtime.mark (r : Runtime) : Runtime :=
  { r with selector := r.selector.map fun q => { q with reviewPending := true } }

/-- The slot's live entry is ENABLED, PREFERRED and lists feed `f` (R67). -/
def State.listsPreferred (s : State) (f : Feed) (i : Slot) : Bool :=
  match s.enabledEntry i with
  | some e =>
    (match e.mode with
     | .first => false
     | .preferred _ => e.feeds.contains f)
  | none => false

/-- FEED_EVENT: the merge engine takes one feed event of the feed's monitor and marks for review every ENABLED
PREFERRED slot that lists the feed (R67); with none sent nothing happens. -/
def State.feedEvent (s : State) (f : Feed) : State :=
  if rd s.feedEvents f = 0 then s
  else
    { s with
      feedEvents := wr s.feedEvents f (rd s.feedEvents f - 1)
      runtimes := tab fun i => if s.listsPreferred f i then (rd s.runtimes i).mark else rd s.runtimes i }

/-- FEED_EVENT (R67). -/
def execFeedEvent (feed : Feed) (s : State) : Answer := .next (s.feedEvent feed)

/-- Review pending of a record (R62). -/
def Runtime.reviewPending (r : Runtime) : Bool :=
  match r.selector with
  | some q => q.reviewPending
  | none => false

/-- The lowest-numbered slot whose review is pending (R68). -/
def State.nextReview (s : State) : Option Slot := allSlots.find? fun i => (rd s.runtimes i).reviewPending

/-- A review: review pending cleared, the selector evaluated, and the hold list re-examined after a switch (R68 to
R70, R74). -/
def StreamView.review (c : StreamCtx) (v : StreamView) : StreamView :=
  match c.entry.mode with
  | .first => v
  | .preferred p => ((v.mapSelector fun q => { q with reviewPending := false }).evaluate c p).reexamine c

/-- SELECTOR_REVIEW: the pending review of the lowest-numbered marked slot is taken (R68); with none pending
nothing happens. -/
def State.selectorReview (s : State) : State :=
  match s.nextReview with
  | some i => s.onStream i false fun c v => v.review c
  | none => s

/-- SELECTOR_REVIEW (R68). -/
def execSelectorReview (s : State) : Answer := .next s.selectorReview

/-- The hold-off expiry of a stream with active feed `a` (R71): an immediate switch when the active feed is absent
or not usable, or when a better feed is usable; and else PRIMARY. The best usable feed is the active feed's better
or the active feed itself, so all three cases end at it. -/
def StreamView.expireHoldOff (c : StreamCtx) (v : StreamView) : StreamView :=
  ((v.mapSelector fun q => { q with reviewPending := false, holdOff := none }).immediateSwitch c).reexamine c

/-- HOLD_OFF_EXPIRY: with no running timer that has reached its expiry, the expiry does not occur (R71). -/
def State.holdOffExpiry (s : State) (i : Slot) : State :=
  match (rd s.runtimes i).selector.bind (·.holdOff) with
  | some x => if reached s.elapsed x then s.onStream i false fun c v => v.expireHoldOff c else s
  | none => s

/-- HOLD_OFF_EXPIRY (R71). -/
def execHoldOffExpiry (slot : Slot) (s : State) : Answer := .next (s.holdOffExpiry slot)

end Sys2Proof.Machine
end

