-- ==== Sys2Proof/Machine/Table.lean ====
section
/-! DEFINITION. The table engine and the swap (sections 1.4, 10.2 and 10.4 to 10.7): bank changes, prepare, the change
classes of the swap, sync, and abandoned commits. -/

namespace Sys2Proof.Machine

/-! ### Bank changes (R16) -/

/-- The index without the mapping of a tag. -/
def indexRemove (t : Tag) (ix : List (Tag × Slot)) : List (Tag × Slot) := ix.filter fun m => m.1 != t

/-- The index with one more mapping, kept in rising order of tag. -/
def indexInsert (t : Tag) (i : Slot) : List (Tag × Slot) → List (Tag × Slot)
  | [] => [(t, i)]
  | m :: rest => if t.toNat < m.1.toNat then (t, i) :: m :: rest else m :: indexInsert t i rest

/-- A slot withdrawn: EMPTY, and its tag's mapping removed when it was ENABLED (R16). -/
def Bank.withdraw (b : Bank) (i : Slot) : Bank :=
  match rd b.slots i with
  | none => b
  | some e =>
    { slots := wr b.slots i none
      index := if e.enabled then indexRemove e.tag b.index else b.index }

/-- A slot written: any mapping it had is removed, the change is put into it, and the tag of an ENABLED entry is
mapped to it (R16). -/
def Bank.write (b : Bank) (ch : StagedChange) : Bank :=
  match ch.change with
  | .remove => b.withdraw ch.slot
  | .write e =>
    { slots := wr (b.withdraw ch.slot).slots ch.slot (some e)
      index := if e.enabled then indexInsert e.tag ch.slot (b.withdraw ch.slot).index
               else (b.withdraw ch.slot).index }

/-- A set of committed changes applied to a bank: every touched slot withdrawn, then the touched slots written one by
one in staging order (R16). -/
def Bank.applyChanges (b : Bank) (cs : List StagedChange) : Bank :=
  cs.foldl Bank.write (cs.foldl (fun b ch => b.withdraw ch.slot) b)

/-! ### Prepare and sync (R151, R155) -/

/-- PREPARE_COMPLETE: the change list is in the standby bank and the swap is requested (R151); with no commit in
prepare nothing happens. -/
def State.prepareComplete (s : State) : State :=
  match s.engine with
  | .preparing c false => { s.setStandby (s.standbyBank.applyChanges c.changes) with engine := .preparing c true }
  | _ => s

/-- PREPARE_COMPLETE (R151). -/
def execPrepareComplete (s : State) : Answer := .next s.prepareComplete

/-- SYNC_COMPLETE: the change list is in the new standby bank too; the engine is READY, or the queued commit's
prepare starts (R155); with no sync running nothing happens. -/
def State.syncComplete (s : State) : State :=
  match s.engine with
  | .syncing cs none => { s.setStandby (s.standbyBank.applyChanges cs) with engine := .ready }
  | .syncing cs (some q) => { s.setStandby (s.standbyBank.applyChanges cs) with engine := .preparing q false }
  | _ => s

/-- SYNC_COMPLETE (R155). -/
def execSyncComplete (s : State) : Answer := .next s.syncComplete

/-! ### The change classes of the swap (R153, R154) -/

/-- The selector part of a stream's new runtime: present for a PREFERRED entry, at its best usable feed (R64). -/
def StreamCtx.startSelector (c : StreamCtx) : Option Selector :=
  match c.entry.mode with
  | .first => none
  | .preferred _ =>
    some { state := if c.best.isSome then .primary else .noFeed, active := c.best, holdOff := none,
           rescueRun := none, reviewPending := false }

/-- A runtime record initialised, or reset with its hold list flushed first (R153). -/
def StreamView.initialise (c : StreamCtx) (v : StreamView) : StreamView :=
  { v.flushHold c with
    rt := { Runtime.disabled StreamCounters.zero with mergeState := .seeking, selector := c.startSelector }
    latch := false }

/-- The hold list after steps 1 to 3 of a retune (R154): entries of feeds no longer listed, entries beyond W, and the
excess over the hold limit, farthest first, are discarded. -/
def trimHold (e : Entry) (n : Seq) (hold : List Copy) : List Copy :=
  ((hold.filter fun h => e.feeds.contains h.feed).filter fun h => decide (dist n h.seq ≤ e.window)).take e.holdLimit

/-- The adjustments of a retune (R154, R75). DESIGN CHOICE (log 27): the retune's review clears review pending, as R75 says,
so the pending review that R76's row on a review and a swap speaks of is not taken afterwards. -/
def StreamView.retune (c : StreamCtx) (v : StreamView) : StreamView :=
  let kept := match v.rt.nes with
    | some n => trimHold c.entry n v.rt.hold
    | none => v.rt.hold
  let w := ((v.mapRt fun r => { r with hold := kept }).freeBuffers c (v.rt.hold.length - kept.length)).clearCandidate
  match c.entry.mode with
  | .first => w
  | .preferred p =>
    ((w.mapSelector fun q => { q with rescueRun := none, reviewPending := false }).evaluate c p).reexamine c

/-- Two entries have the same mode (R153). -/
def Mode.same : Mode → Mode → Bool
  | .first, .first => true
  | .preferred _, .preferred _ => true
  | _, _ => false

/-- A runtime record that goes to DISABLED with counters `k`, its hold list flushed (R153). The pressure flag is left
to the end of the event. -/
def State.stopStream (s : State) (i : Slot) (k : StreamCounters) : State :=
  { s.setRuntime i (Runtime.disabled k) with
    pool := { s.pool with free := s.pool.free + (rd s.runtimes i).hold.length } }

/-- The effect of the change class of a touched slot on its runtime record, with `old` the slot's entry in the old
live bank (R153). -/
def State.applyClass (s : State) (i : Slot) (old : Option Entry) : State :=
  match old.filter (·.enabled), s.enabledEntry i with
  | none, some _ => s.onStream i true fun c v => v.initialise c
  | some o, some e =>
    if o.tag = e.tag ∧ o.mode.same e.mode = true then s.onStream i true fun c v => v.retune c
    else s.onStream i true fun c v => v.initialise c
  | some _, none =>
    s.stopStream i (if (s.liveEntry i).isSome then (rd s.runtimes i).counters else StreamCounters.zero)
  | none, none =>
    if (s.liveEntry i).isSome then s else s.setRuntime i { rd s.runtimes i with counters := StreamCounters.zero }

/-- The change classes of every touched slot applied in staging order, with `old` the old live bank (R152 step 2). -/
def State.applyClasses (s : State) (old : Bank) (cs : List StagedChange) : State :=
  cs.foldl (fun t ch => t.applyClass ch.slot (rd old.slots ch.slot)) s

/-- The session's reply cache after a commit's deferred reply `r`: the reply, where the cache holds that commit's
marker, and else what it held (R127). -/
def Session.answered (ss : Session) (c : Commit) (r : Reply) : Session :=
  if ss.cache = .pendingCommit c.token c.seq then { ss with cache := .reply r } else ss

/-- SWAP: the live bank is switched, the change classes are applied, the generation rises by 1, the pressure flag is
tested, the engine enters SYNCING, and the deferred reply is handed over (R152); with no swap requested nothing
happens. -/
def State.swap (s : State) : State :=
  match s.engine with
  | .preparing c true =>
    let t := State.applyClasses { s with live := s.live.other } s.liveBank c.changes
    let u := { t with generation := t.generation + 1 }.testPool
    let r := deferredReply c .ok (be32 u.generation)
    { u with
      engine := .syncing c.changes none
      session := u.session.map fun (ss : Session) => ss.answered c r }.placeReply r
  | _ => s

/-- SWAP (R152). -/
def execSwap (s : State) : Answer := .next s.swap

/-! ### Abandoned commits (R156) -/

/-- The commits that a RESET_PART abandons: the one in prepare, then the queued one (R156). -/
def EngineState.abandoned : EngineState → List Commit
  | .ready => []
  | .preparing c _ => [c]
  | .syncing _ none => []
  | .syncing _ (some q) => [q]

/-- The commits in prepare and queued abandoned, each answered ABORTED (R143 step 1, R156). -/
def State.abandonCommits (s : State) : State :=
  s.engine.abandoned.foldl (fun t c => t.placeReply (deferredReply c .aborted [])) s

end Sys2Proof.Machine
end

