-- ==== Sys2Proof/Machine/Sessions.lean ====
section
/-! DEFINITION. The management engine (section 8): commands taken one at a time from the inbox, the session and
sequence rules, the reply cache, OPEN_SESSION, CLOSE_SESSION, unknown codes and the idle expiry. -/

namespace Sys2Proof.Machine

/-- What the execution of a command brings about: the part's state after its effects, its result and reply data (none
for an accepted COMMIT: R127), and whether the session is then closed (R126, R129). -/
structure CommandEffect where
  state : State
  reply : Option (ResultCode × List Byte)
  closes : Bool

/-- The effect of a command that only answers. -/
def answer (s : State) (result : ResultCode) (data : List Byte) : CommandEffect :=
  { state := s, reply := some (result, data), closes := false }

/-- The management engine takes the command at the front of the inbox when it satisfies `p` and no reply waits
(R121), and `g` treats it; otherwise nothing is taken. -/
def State.onCommand (s : State) (p : Command → Bool) (g : Command → State → State) : State :=
  match s.delivery.replyWait, s.inbox with
  | [], c :: rest => if p c then g c { s with inbox := rest } else s
  | _, _ => s

/-- The idle timer's expiry when it is started now with a timeout in seconds (R128). -/
def State.idleStart (s : State) (timeout : Nat) : Moment := after s.elapsed (timeout * 1000000)

/-- The session's record of an executed command: last sequence, reply cache and idle timer (R123, R128). -/
def State.recordExecuted (s : State) (seq : Byte) (cache : Cache) : State :=
  { s with session := s.session.map fun ss =>
      { ss with last := seq, cache := cache, idleExpiry := s.idleStart ss.idleTimeout } }

/-- The idle timer restarted (R128). -/
def State.restartIdle (s : State) : State :=
  { s with session := s.session.map fun ss => { ss with idleExpiry := s.idleStart ss.idleTimeout } }

/-- The staging list of the open session, empty when none is open (R134, R145). -/
def State.stagingList (s : State) : List StagedChange :=
  match s.session with
  | some ss => ss.staging
  | none => []

/-- The session closed: its staging list, cache and timer go with it (R126, R128). -/
def State.closeSession (s : State) : State := { s with session := none }

/-- A command that repeats the last sequence is answered from the reply cache, or PENDING for a pending COMMIT marker;
the idle timer restarts (R123, R124, R127, R128). -/
def State.answerAgain (s : State) (c : Command) (cache : Cache) : State :=
  match cache with
  | .reply r => s.restartIdle.placeReply r
  | .pendingCommit _ _ => s.restartIdle.placeReply (replyTo c .pending [])

/-- A command executed under the session: its sequence and reply are recorded, and the reply is handed over; for an
accepted COMMIT the marker is recorded and no reply is handed over (R123, R126, R127). -/
def executeSequenced (body : Command → State → CommandEffect) (c : Command) (s : State) : State :=
  let e := body c s
  match e.reply with
  | none => e.state.recordExecuted c.seq (.pendingCommit c.token c.seq)
  | some (r, d) =>
    let t := (e.state.recordExecuted c.seq (.reply (replyTo c r d))).placeReply (replyTo c r d)
    if e.closes then t.closeSession else t

/-- The treatment of a command other than OPEN_SESSION by its token and sequence (R122, R123). -/
def treatCommand (sessionClass : Bool) (body : Command → State → CommandEffect) (c : Command) (s : State) : State :=
  match s.session.filter (fun ss => ss.token == c.token) with
  | some ss =>
    if c.seq = ss.last + 1 then executeSequenced body c s
    else if c.seq = ss.last then s.answerAgain c ss.cache
    else s.placeReply (replyTo c .outOfOrder [])
  | none =>
    if sessionClass then s.placeReply (replyTo c .noSession [])
    else
      match (body c s).reply with
      | some (r, d) => (body c s).state.placeReply (replyTo c r d)
      | none => (body c s).state

/-- An open command with a given code (R122). -/
def State.openCommand (s : State) (code : Byte) (body : Command → State → CommandEffect) : State :=
  s.onCommand (fun c => c.code == code) (treatCommand false body)

/-- A session command with a given code (R122). -/
def State.sessionCommand (s : State) (code : Byte) (body : Command → State → CommandEffect) : State :=
  s.onCommand (fun c => c.code == code) (treatCommand true body)

/-! ### OPEN_SESSION (R125) -/

/-- The argument of OPEN_SESSION, when it is one byte from 1 to 60 (R125). -/
def openTimeout (args : List Byte) : Option Nat :=
  match args with
  | [b] => if 1 ≤ b.toNat ∧ b.toNat ≤ 60 then some b.toNat else none
  | _ => none

/-- The session opened or renewed with timeout `t`, keeping `staging`, and the OK reply cached and handed over
(R125). -/
def openWith (c : Command) (t : Nat) (staging : List StagedChange) (s : State) : State :=
  let r := replyTo c .ok (be32 s.generation ++ [byteOf t])
  let ss : Session :=
    { token := c.token, last := c.seq, cache := .reply r, idleTimeout := t, idleExpiry := s.idleStart t,
      staging := staging }
  { s with session := some ss }.placeReply r

/-- The treatment of OPEN_SESSION (R125). -/
def treatOpen (c : Command) (s : State) : State :=
  match s.session with
  | none =>
    (match openTimeout c.args with
     | some t => openWith c t [] s
     | none => s.placeReply (replyTo c .badArgument []))
  | some ss =>
    if ss.token = c.token then
      if c.seq = ss.last then s.answerAgain c ss.cache
      else
        (match openTimeout c.args with
         | some t => openWith c t ss.staging s
         | none => s.placeReply (replyTo c .badArgument []))
    else s.placeReply (replyTo c .sessionHeld [])

/-- OPEN_SESSION (R125). -/
def execOpenSession (s : State) : Answer := .next (s.onCommand (fun c => c.code == 0x01) treatOpen)

/-! ### CLOSE_SESSION, unknown codes, the idle expiry -/

/-- The execution of CLOSE_SESSION (R126). -/
def closeBody (c : Command) (s : State) : CommandEffect :=
  if c.args.isEmpty then { state := s, reply := some (.ok, []), closes := true } else answer s .badArgument []

/-- CLOSE_SESSION (R126). -/
def execCloseSession (s : State) : Answer := .next (s.sessionCommand 0x02 closeBody)

/-- The execution of a command whose code is not in the command table (R122). -/
def unknownBody (_c : Command) (s : State) : CommandEffect := answer s .unknownCommand []

/-- UNKNOWN_COMMAND (R122). -/
def execUnknownCommand (s : State) : Answer :=
  .next (s.onCommand (fun c => !commandCodes.contains c.code) (treatCommand false unknownBody))

/-- IDLE_EXPIRY: the session closes and SESSION_EXPIRED is raised (R128); with no session open, or before its idle
timer's expiry, nothing happens. -/
def State.idleExpire (s : State) : State :=
  match s.session with
  | some ss => if reached s.elapsed ss.idleExpiry then s.closeSession.raise (partNotice .sessionExpired) else s
  | none => s

/-- IDLE_EXPIRY (R128). -/
def execIdleExpiry (s : State) : Answer := .next s.idleExpire

end Sys2Proof.Machine
end

