-- ==== Sys2Proof/Machine/PartCommands.lean ====
section
/-! DEFINITION. The part commands (section 9) but for RESET_PART: reading, setting, counters, restart, alarms. -/

namespace Sys2Proof.Machine

/-! ### STATUS (R133) -/

/-- The byte STATUS reports for a feed: the state code in bits 0 to 2, and bit 7 when the feed is usable (R133). -/
def Monitor.statusByte (m : Monitor) : Byte := m.state.code ||| (if m.usable then 0x80 else 0)

/-- The 50 bytes of a STATUS reply (R133). -/
def State.statusData (s : State) : List Byte :=
  be16 Config.partIdentity ++ [Config.revision] ++ be32 s.generation ++ [s.live.code, s.engine.code] ++
    [byteOf (match s.session with
      | some ss => ss.staging.length
      | none => 0),
     flagByte s.session.isSome] ++
    be16 (match s.session with
      | some ss => ss.token
      | none => 0) ++
    be16 (BitVec.ofNat 16 s.pool.free) ++ [flagByte s.pool.pressure] ++
    be16 (BitVec.ofNat 16 s.dataQueue.length) ++
    [byteOf s.delivery.controlQueue.length, byteOf s.delivery.replyWait.length, byteOf s.notices.queue.length] ++
    be16 s.notices.lost ++ allFeeds.map (fun f => (rd s.monitors f).statusByte) ++
    [byteOf (setLatches s.feedLatches)] ++ be16 (BitVec.ofNat 16 (setLatches s.streamLatches)) ++
    be32 s.partTime ++ be32 s.delivery.errored ++ be32 s.delivery.foreign ++ be32 s.delivery.flushed ++
    be32 s.inboxOverflows

/-- The execution of STATUS (R133). -/
def statusBody (c : Command) (s : State) : CommandEffect :=
  if c.args.isEmpty then answer s .ok s.statusData else answer s .badArgument []

/-- STATUS (R133). -/
def execStatus (s : State) : Answer := .next (s.openCommand 0x10 statusBody)

/-! ### READ_STREAM (R134, R135) -/

/-- An optional timer or number of a reply: a flag, then its four bytes, 0 when absent (R132). -/
def optionTime (t : Option Moment) : List Byte := [flagByte t.isSome] ++ be32 (partTimeOf (t.getD 0))

/-- The selector part of a RUNTIME reply (R135). -/
def selectorBytes (q : Option Selector) : List Byte :=
  match q with
  | none => [0, 0, 0xFF] ++ optionTime none ++ [0xFF, 0, 0]
  | some q =>
    [1, q.state.code, feedOrNone q.active] ++ optionTime q.holdOff ++
      [feedOrNone (q.rescueRun.map (·.feed)), byteOf (match q.rescueRun with
        | some r => r.count
        | none => 0), flagByte q.reviewPending]

/-- The runtime fields of a READ_STREAM reply, with the slot's alarm latch (R135). -/
def runtimeBytes (r : Runtime) (latch : Bool) : List Byte :=
  [r.mergeState.code, flagByte r.nes.isSome] ++ be16 (r.nes.getD 0) ++
    (match r.candidate with
     | some k => [1] ++ be16 k.seq ++ [byteOf k.count]
     | none => [0, 0, 0, 0]) ++
    optionTime r.due ++ [byteOf r.placeholderRun, flagByte r.gapMark, flagByte latch] ++ selectorBytes r.selector ++
    [byteOf r.hold.length] ++ r.hold.flatMap fun h => be16 h.seq ++ [feedByte h.feed]

/-- The staged change of a slot in a staging list (R145). -/
def stagedFor (i : Slot) (staging : List StagedChange) : Option Change :=
  (staging.find? fun ch => ch.slot == i).map (·.change)

/-- The bytes of a staged change in a READ_STREAM reply (R134). -/
def Change.bytes : Change → List Byte
  | .write e => [1] ++ entryRecord e
  | .remove => [2]

/-- The reply of READ_STREAM for slot `i` and part `part` (R134). -/
def State.readStreamReply (s : State) (i : Slot) (part : Byte) : ResultCode × List Byte :=
  let lead := [slotByte i, part, slotStateCode (s.liveEntry i)]
  if part = 0 then
    (.ok, lead ++ (match s.liveEntry i with
      | some e => entryRecord e
      | none => []))
  else if part = 1 then
    (match stagedFor i s.stagingList with
     | some ch => (.ok, lead ++ ch.bytes)
     | none => (.notStaged, []))
  else if part = 2 then
    (.ok, lead ++ (match s.liveEntry i with
      | some _ => runtimeBytes (rd s.runtimes i) (rd s.streamLatches i)
      | none => []))
  else if part = 3 then
    (.ok, lead ++ (match s.liveEntry i with
      | some _ => (rd s.runtimes i).counters
      | none => StreamCounters.zero).bytes)
  else (.badArgument, [])

/-- The execution of READ_STREAM (R134). -/
def readStreamBody (c : Command) (s : State) : CommandEffect :=
  match c.args with
  | [slot, part] => answer s (s.readStreamReply (slotOf slot) part).1 (s.readStreamReply (slotOf slot) part).2
  | _ => answer s .badArgument []

/-- READ_STREAM (R134). -/
def execReadStream (s : State) : Answer := .next (s.openCommand 0x11 readStreamBody)

/-! ### READ_FEED and READ_NOTICES (R136, R137) -/

/-- The 67 bytes of a READ_FEED reply (R136). -/
def State.readFeedData (s : State) (f : Feed) : List Byte :=
  let m := rd s.monitors f
  [feedByte f] ++ settingsRecord m.current ++
    (match m.pending with
     | some p => [1] ++ settingsRecord p
     | none => List.replicate 10 0) ++
    [m.state.code, flagByte m.link, flagByte m.usable, byteOf m.acceptedRun, byteOf m.rejectTally] ++
    (match m.window with
     | some w => [1] ++ be16 w.valid ++ be16 w.errored
     | none => [0, 0, 0, 0, 0]) ++
    [flagByte (rd s.feedLatches f)] ++ m.counters.bytes

/-- The execution of READ_FEED (R136). -/
def readFeedBody (c : Command) (s : State) : CommandEffect :=
  match c.args with
  | [b] =>
    (match feedOf b with
     | some f => answer s .ok (s.readFeedData f)
     | none => answer s .badArgument [])
  | _ => answer s .badArgument []

/-- READ_FEED (R136). -/
def execReadFeed (s : State) : Answer := .next (s.openCommand 0x12 readFeedBody)

/-- The data of a READ_NOTICES reply (R137). -/
def State.readNoticesData (s : State) : List Byte :=
  [byteOf s.notices.queue.length, byteOf s.notices.credits, byteOf s.notices.creditMax] ++
    be16 (BitVec.ofNat 16 s.notices.refillInterval) ++ be16 s.notices.mask ++ be16 s.notices.lost

/-- The execution of READ_NOTICES (R137). -/
def readNoticesBody (c : Command) (s : State) : CommandEffect :=
  if c.args.isEmpty then answer s .ok s.readNoticesData else answer s .badArgument []

/-- READ_NOTICES (R137). -/
def execReadNotices (s : State) : Answer := .next (s.openCommand 0x13 readNoticesBody)

/-! ### SET_FEED and SET_NOTICES (R138, R139) -/

/-- The feed and settings that the arguments of SET_FEED spell, when they pass its checks (R138). -/
def setFeedArgs (args : List Byte) : Option (Feed × Settings) :=
  if args.length = 10 then
    match feedOf (byteAt args 0) with
    | some f => if (settingsOfRecord (args.drop 1)).inRange then some (f, settingsOfRecord (args.drop 1)) else none
    | none => none
  else none

/-- The execution of SET_FEED (R138). -/
def setFeedBody (c : Command) (s : State) : CommandEffect :=
  match setFeedArgs c.args with
  | some (f, p) => answer (s.applySettings f p) .ok []
  | none => answer s .badArgument []

/-- SET_FEED (R138). -/
def execSetFeed (s : State) : Answer := .next (s.sessionCommand 0x20 setFeedBody)

/-- The kind mask, credit maximum and refill interval that the arguments of SET_NOTICES spell, when they pass its
checks (R139). -/
def setNoticesArgs (args : List Byte) : Option (BitVec 16 × Nat × Nat) :=
  if args.length = 5 ∧ 1 ≤ (byteAt args 2).toNat ∧ (byteAt args 2).toNat ≤ 16 ∧
      1 ≤ (word16At args 3).toNat ∧ (word16At args 3).toNat ≤ 1000 then
    some (maskRead (word16At args 0), (byteAt args 2).toNat, (word16At args 3).toNat)
  else none

/-- The notice unit takes new settings as one event; the notices that wait are governed by the mask they were raised
under (R139). -/
def State.applyNoticeSettings (s : State) (mask : BitVec 16) (creditMax interval : Nat) : State :=
  { s with notices := { s.notices with
      earlier := s.notices.stillDue
      raised := []
      mask := mask
      creditMax := creditMax
      credits := min s.notices.credits creditMax
      refillInterval := interval
      refillExpiry := after s.elapsed (interval * 1000) } }

/-- The execution of SET_NOTICES (R139). -/
def setNoticesBody (c : Command) (s : State) : CommandEffect :=
  match setNoticesArgs c.args with
  | some (mask, creditMax, interval) => answer (s.applyNoticeSettings mask creditMax interval) .ok []
  | none => answer s .badArgument []

/-- SET_NOTICES (R139). -/
def execSetNotices (s : State) : Answer := .next (s.sessionCommand 0x21 setNoticesBody)

/-! ### CLEAR_COUNTERS (R140) -/

/-- The counters of one stream set to 0. -/
def State.clearStreamCounters (s : State) (i : Slot) : State :=
  s.setRuntime i { rd s.runtimes i with counters := StreamCounters.zero }

/-- The counters of the delivery port set to 0 (R119). -/
def Delivery.clearCounters (d : Delivery) : Delivery := { d with errored := 0, foreign := 0, flushed := 0 }

/-- Every feed's counters set to 0 (R91). -/
def State.clearAllFeedCounters (s : State) : State :=
  { s with monitors := tab fun f => { rd s.monitors f with counters := FeedCounters.zero } }

/-- Every counter of the part set to 0 (R140 type 3). -/
def State.clearAllCounters (s : State) : State :=
  { s.clearAllFeedCounters with
    runtimes := tab fun i => { rd s.runtimes i with counters := StreamCounters.zero }
    delivery := s.delivery.clearCounters
    inboxOverflows := 0 }

/-- The state with a target's counters cleared, when the target type and number name one (R140). -/
def State.clearTarget (s : State) (type number : Byte) : Option State :=
  if type = 0 then some (s.clearStreamCounters (slotOf number))
  else if type = 1 then (feedOf number).map fun f => s.countFeed f fun _ => FeedCounters.zero
  else if type = 2 then some { s with delivery := s.delivery.clearCounters }
  else if type = 3 then some s.clearAllCounters
  else none

/-- The execution of CLEAR_COUNTERS (R140). -/
def clearCountersBody (c : Command) (s : State) : CommandEffect :=
  match c.args with
  | [type, number] =>
    (match s.clearTarget type number with
     | some t => answer t .ok []
     | none => answer s .badArgument [])
  | _ => answer s .badArgument []

/-- CLEAR_COUNTERS (R140). -/
def execClearCounters (s : State) : Answer := .next (s.sessionCommand 0x22 clearCountersBody)

/-! ### RESTART_STREAM (R141, R44) -/

/-- A stream put back into SEEKING (R44), with its selector re-evaluated (R65). -/
def StreamView.restart (c : StreamCtx) (v : StreamView) : StreamView :=
  let w := (v.flushHold c).mapRt fun r =>
    { Runtime.disabled r.counters with
      mergeState := .seeking
      selector := r.selector.map fun q => { q with holdOff := none, rescueRun := none, reviewPending := false } }
  match c.entry.mode with
  | .first => w
  | .preferred _ => if w.rt.selector.isSome then w.immediateSwitch c else w

/-- The execution of RESTART_STREAM (R141). -/
def restartStreamBody (c : Command) (s : State) : CommandEffect :=
  match c.args with
  | [b] =>
    if (s.enabledEntry (slotOf b)).isSome then
      answer (s.onStream (slotOf b) false fun k v => v.restart k) .ok []
    else answer s .badArgument []
  | _ => answer s .badArgument []

/-- RESTART_STREAM (R141). -/
def execRestartStream (s : State) : Answer := .next (s.sessionCommand 0x23 restartStreamBody)

/-! ### ACK_ALARMS (R142) -/

/-- The latches that an ACK_ALARMS acknowledges: which feeds' and which slots' (R142). -/
structure AckTarget where
  feeds : Vector Bool 4
  slots : Vector Bool 256
  deriving DecidableEq, Repr

/-- No latch of a table. -/
def noneOf {n : Nat} : Vector Bool n := tab fun _ => false

/-- Every latch of a table. -/
def allOf {n : Nat} : Vector Bool n := tab fun _ => true

/-- The target of an ACK_ALARMS (R142). -/
def ackTarget (type number : Byte) : Option AckTarget :=
  if type = 0 then (feedOf number).map fun f => { feeds := tab fun g => g == f, slots := noneOf }
  else if type = 1 then some { feeds := noneOf, slots := tab fun i => i == slotOf number }
  else if type = 2 then some { feeds := allOf, slots := noneOf }
  else if type = 3 then some { feeds := noneOf, slots := allOf }
  else if type = 4 then some { feeds := allOf, slots := allOf }
  else none

/-- The set latches of the target, by whether their condition is present (R142). -/
def State.targetLatches (s : State) (t : AckTarget) (held : Bool) : Nat :=
  allFeeds.countP (fun f => rd t.feeds f && rd s.feedLatches f && s.feedHeld f == held) +
    allSlots.countP (fun i => rd t.slots i && rd s.streamLatches i && s.streamHeld i == held)

/-- Each set latch of the target whose condition is absent is cleared (R142, R165). -/
def State.acknowledge (s : State) (t : AckTarget) : State :=
  { s with
    feedLatches := tab fun f => rd s.feedLatches f && (!rd t.feeds f || s.feedHeld f)
    streamLatches := tab fun i => rd s.streamLatches i && (!rd t.slots i || s.streamHeld i) }

/-- The execution of ACK_ALARMS: the reply counts the latches cleared and those of the target still set (R142). -/
def ackAlarmsBody (c : Command) (s : State) : CommandEffect :=
  match c.args with
  | [type, number] =>
    (match ackTarget type number with
     | some t =>
       answer (s.acknowledge t) .ok
         (be16 (BitVec.ofNat 16 (s.targetLatches t false)) ++ be16 (BitVec.ofNat 16 (s.targetLatches t true)))
     | none => answer s .badArgument [])
  | _ => answer s .badArgument []

/-- ACK_ALARMS (R142). -/
def execAckAlarms (s : State) : Answer := .next (s.sessionCommand 0x24 ackAlarmsBody)

end Sys2Proof.Machine
end

