-- ==== Sys2Proof/Machine/Resets.lean ====
section
/-! DEFINITION. Power-on reset and the two levels of RESET_PART (section 9.5). -/

namespace Sys2Proof.Machine

/-- POR: every block at its power-on values; the model's queue of waiting commands is kept (R2, R19, R23, R66, R92,
R118, R129, R156, R163, R164). -/
def State.powerOn (s : State) : State := { State.reset with pending := s.pending }

/-- POR (R23). -/
def execPor (s : State) : Answer := .next s.powerOn

/-- Every enabled stream put back into SEEKING in one event (R23, R143 step 3). -/
def State.restartStreams (s : State) : State :=
  allSlots.foldl (fun t i => t.onStream i true fun c v => v.restart c) s

/-- The data queue flushed, each frame counted as flushed, and the pressure flag tested once after all the frees of
the event (R118, R143 step 3). -/
def State.flushData (s : State) : State :=
  State.testPool { s with
    dataQueue := []
    pool := { s.pool with free := s.pool.free + s.dataQueue.length }
    delivery := { s.delivery with flushed := satAdd s.delivery.flushed s.dataQueue.length } }

/-- The standby bank rebuilt as an exact copy of the live bank, and the table engine READY (R143 step 2, R19). -/
def State.rebuildStandby (s : State) : State := { s.setStandby s.liveBank with engine := .ready }

/-- The effects of a RESET_PART of level RESTART (R143 steps 1 to 3). -/
def State.restartPart (s : State) : State := s.abandonCommits.rebuildStandby.restartStreams.flushData

/-- The execution of a RESET_PART that is not of level CLEAR (R143). -/
def resetRestartBody (c : Command) (s : State) : CommandEffect :=
  if c.args = [1] then answer s.restartPart .ok ([1] ++ be32 s.restartPart.generation) else answer s .badArgument []

/-- The command is a RESET_PART of level CLEAR. -/
def isResetClear (c : Command) : Bool := c.code == 0x2F && c.args == [2]

/-- The command is a RESET_PART of level RESTART, or one whose arguments name no level (log 14). -/
def isResetRestart (c : Command) : Bool := c.code == 0x2F && c.args != [2]

/-- RESET_PART, level RESTART (R143). -/
def execResetPartRestart (s : State) : Answer := .next (s.onCommand isResetRestart (treatCommand true resetRestartBody))

/-- The control queue and the reply wait emptied (R144 step 1). -/
def State.dropControl (s : State) : State :=
  { s with delivery := { s.delivery with controlQueue := [], replyWait := [] } }

/-- Banks, runtime records, data queue and pool at a CLEAR (R144 step 3, R118). -/
def State.clearStreams (s : State) : State :=
  { s with
    bankA := Bank.empty
    bankB := Bank.empty
    live := .a
    generation := 0
    engine := .ready
    runtimes := tab fun _ => Runtime.disabled StreamCounters.zero
    dataQueue := []
    pool := { free := s.pool.free + s.heldEntries + s.dataQueue.length, pressure := false }
    delivery := { s.delivery with dataRun := 0 } }

/-- The notice unit and the stream latches at a CLEAR; notices raised and not yet taken are kept, as the mask they were
raised under has it (R144 step 4, R163, log 5). -/
def State.clearNotices (s : State) : State :=
  { s with
    notices := NoticeUnit.start s.notices.stillDue s.elapsed
    streamLatches := tab fun _ => false }

/-- The feed monitors restarted, F0 first (R144 step 5). -/
def State.restartMonitors (s : State) : State := allFeeds.foldl State.restartMonitor s

/-- The feed counters, the delivery port counters and the inbox overflows counter at a CLEAR (R144 step 6). -/
def State.clearPartCounters (s : State) : State :=
  { s.clearAllFeedCounters with
    delivery := s.delivery.clearCounters
    inboxOverflows := 0 }

/-- The effects of a RESET_PART of level CLEAR (R144 steps 1 to 6). -/
def State.clearPart (s : State) : State :=
  s.dropControl.abandonCommits.clearStreams.clearNotices.restartMonitors.clearPartCounters

/-- The execution of a RESET_PART of level CLEAR: the session closes after the reply has been handed over (R144
step 7, R129). -/
def resetClearBody (_c : Command) (s : State) : CommandEffect :=
  { state := s.clearPart, reply := some (.ok, [2] ++ be32 s.clearPart.generation), closes := true }

/-- RESET_PART, level CLEAR (R144). -/
def execResetPartClear (s : State) : Answer := .next (s.onCommand isResetClear (treatCommand true resetClearBody))

end Sys2Proof.Machine
end

