-- ==== Sys2Proof/Machine/Staging.lean ====
section
/-! DEFINITION. The staging commands and COMMIT (sections 10.1 and 10.3). -/

namespace Sys2Proof.Machine

/-- The open session's staging list replaced. -/
def State.setStaging (s : State) (staging : List StagedChange) : State :=
  { s with session := s.session.map fun ss => { ss with staging := staging } }

/-- The list holds a change for the slot. -/
def stagesSlot (staging : List StagedChange) (i : Slot) : Bool := staging.any fun ch => ch.slot == i

/-- A change staged: in place of the slot's change, or at the back; none when the list is full (R145 to R147). -/
def stageChange (staging : List StagedChange) (ch : StagedChange) : Option (List StagedChange) :=
  if stagesSlot staging ch.slot then some (staging.map fun x => if x.slot = ch.slot then ch else x)
  else if staging.length < Config.stagingPlaces then some (staging ++ [ch])
  else none

/-- The effect of staging a change: OK with the number of changes, or STAGING_FULL (R146, R147). -/
def stageEffect (s : State) (ch : StagedChange) : CommandEffect :=
  match stageChange s.stagingList ch with
  | some l => answer (s.setStaging l) .ok [byteOf l.length]
  | none => answer s .stagingFull []

/-- The execution of STAGE_WRITE (R146). -/
def stageWriteBody (c : Command) (s : State) : CommandEffect :=
  if c.args.length = 24 then
    match checkRecord (c.args.drop 1) with
    | .ok e => stageEffect s { slot := slotOf (byteAt c.args 0), change := .write e }
    | .error r => answer s .invalidEntry [byteAt c.args 0, r.code]
  else answer s .badArgument []

/-- STAGE_WRITE (R146). -/
def execStageWrite (s : State) : Answer := .next (s.sessionCommand 0x30 stageWriteBody)

/-- The execution of STAGE_REMOVE (R147). -/
def stageRemoveBody (c : Command) (s : State) : CommandEffect :=
  match c.args with
  | [b] => stageEffect s { slot := slotOf b, change := .remove }
  | _ => answer s .badArgument []

/-- STAGE_REMOVE (R147). -/
def execStageRemove (s : State) : Answer := .next (s.sessionCommand 0x31 stageRemoveBody)

/-- The execution of UNSTAGE (R147). -/
def unstageBody (c : Command) (s : State) : CommandEffect :=
  match c.args with
  | [b] =>
    if stagesSlot s.stagingList (slotOf b) then
      answer (s.setStaging (s.stagingList.filter fun ch => ch.slot != slotOf b)) .ok
        [byteOf (s.stagingList.filter fun ch => ch.slot != slotOf b).length]
    else answer s .notStaged []
  | _ => answer s .badArgument []

/-- UNSTAGE (R147). -/
def execUnstage (s : State) : Answer := .next (s.sessionCommand 0x32 unstageBody)

/-! ### COMMIT (R149, R150) -/

/-- The entry a change leaves in its slot: its record, or none for a removal (R149). -/
def Change.entry : Change → Option Entry
  | .write e => some e
  | .remove => none

/-- The entry of a slot in the table that would result from applying every staged change to the live bank (R149). -/
def State.resultEntry (s : State) (cs : List StagedChange) (i : Slot) : Option Entry :=
  match cs.find? fun ch => ch.slot == i with
  | some ch => ch.change.entry
  | none => s.liveEntry i

/-- Another slot than `i` holds an ENABLED entry with tag `t` in the result (R149). -/
def State.tagElsewhere (s : State) (cs : List StagedChange) (i : Slot) (t : Tag) : Bool :=
  allSlots.any fun j => j != i && (match s.resultEntry cs j with
    | some e => e.enabled && e.tag == t
    | none => false)

/-- The staged change is a write of an ENABLED entry whose tag another ENABLED entry of the result also carries
(R149). -/
def State.duplicates (s : State) (cs : List StagedChange) (ch : StagedChange) : Bool :=
  match ch.change with
  | .write e => e.enabled && s.tagElsewhere cs ch.slot e.tag
  | .remove => false

/-- The table engine takes an accepted commit: its prepare starts, or it is queued (R150). -/
def EngineState.accept (e : EngineState) (c : Commit) : EngineState :=
  match e with
  | .ready => .preparing c false
  | .syncing cs _ => .syncing cs (some c)
  | .preparing d r => .preparing d r

/-- The table engine refuses a COMMIT with BUSY (R148, R149). -/
def EngineState.busy : EngineState → Bool
  | .ready => false
  | .preparing _ _ => true
  | .syncing _ none => false
  | .syncing _ (some _) => true

/-- An accepted COMMIT: its change list is the staging list, which becomes empty, and no reply is given (R150). -/
def acceptCommit (c : Command) (s : State) : CommandEffect :=
  { state := { s.setStaging [] with
      engine := s.engine.accept { token := c.token, seq := c.seq, changes := s.stagingList } }
    reply := none
    closes := false }

/-- The execution of COMMIT: the length, then the checks of state, generation and tags in order (R149, R150). -/
def commitBody (c : Command) (s : State) : CommandEffect :=
  if c.args.length = 4 then
    if s.engine.busy then answer s .busy []
    else if word32At c.args 0 ≠ s.generation then answer s .stale []
    else
      match s.stagingList.find? (s.duplicates s.stagingList) with
      | some ch => answer s .invalidEntry [slotByte ch.slot, EntryReason.tagDuplicate.code]
      | none => acceptCommit c s
  else answer s .badArgument []

/-- COMMIT (R149). -/
def execCommit (s : State) : Answer := .next (s.sessionCommand 0x33 commitBody)

end Sys2Proof.Machine
end

