-- ==== Sys2Proof/Machine/Dispatch.lean ====
section
/-! DEFINITION. The effect of every command, one arm each. -/

namespace Sys2Proof.Machine

def exec (i : Instr) (s : State) : Host.Outcome State Fault Refusal :=
  match i with
  | .por => Sys2Proof.Machine.execPor s
  | .feedFrameReceived feed bytes => Sys2Proof.Machine.execFeedFrameReceived feed bytes s
  | .feedLinkDown feed => Sys2Proof.Machine.execFeedLinkDown feed s
  | .feedLinkUp feed => Sys2Proof.Machine.execFeedLinkUp feed s
  | .windowExpiry feed => Sys2Proof.Machine.execWindowExpiry feed s
  | .feedEvent feed => Sys2Proof.Machine.execFeedEvent feed s
  | .selectorReview => Sys2Proof.Machine.execSelectorReview s
  | .holdOffExpiry slot => Sys2Proof.Machine.execHoldOffExpiry slot s
  | .copyTake feed => Sys2Proof.Machine.execCopyTake feed s
  | .dueExpiry slot => Sys2Proof.Machine.execDueExpiry slot s
  | .deliveryFrameReceived bytes => Sys2Proof.Machine.execDeliveryFrameReceived bytes s
  | .deliveryLinkDown => Sys2Proof.Machine.execDeliveryLinkDown s
  | .deliveryLinkUp => Sys2Proof.Machine.execDeliveryLinkUp s
  | .transmissionStart => Sys2Proof.Machine.execTransmissionStart s
  | .transmissionComplete => Sys2Proof.Machine.execTransmissionComplete s
  | .replyWaitAdmit => Sys2Proof.Machine.execReplyWaitAdmit s
  | .openSession => Sys2Proof.Machine.execOpenSession s
  | .closeSession => Sys2Proof.Machine.execCloseSession s
  | .status => Sys2Proof.Machine.execStatus s
  | .readStream => Sys2Proof.Machine.execReadStream s
  | .readFeed => Sys2Proof.Machine.execReadFeed s
  | .readNotices => Sys2Proof.Machine.execReadNotices s
  | .setFeed => Sys2Proof.Machine.execSetFeed s
  | .setNotices => Sys2Proof.Machine.execSetNotices s
  | .clearCounters => Sys2Proof.Machine.execClearCounters s
  | .restartStream => Sys2Proof.Machine.execRestartStream s
  | .ackAlarms => Sys2Proof.Machine.execAckAlarms s
  | .resetPartRestart => Sys2Proof.Machine.execResetPartRestart s
  | .resetPartClear => Sys2Proof.Machine.execResetPartClear s
  | .stageWrite => Sys2Proof.Machine.execStageWrite s
  | .stageRemove => Sys2Proof.Machine.execStageRemove s
  | .unstage => Sys2Proof.Machine.execUnstage s
  | .commit => Sys2Proof.Machine.execCommit s
  | .unknownCommand => Sys2Proof.Machine.execUnknownCommand s
  | .idleExpiry => Sys2Proof.Machine.execIdleExpiry s
  | .prepareComplete => Sys2Proof.Machine.execPrepareComplete s
  | .swap => Sys2Proof.Machine.execSwap s
  | .syncComplete => Sys2Proof.Machine.execSyncComplete s
  | .noticeRaise => Sys2Proof.Machine.execNoticeRaise s
  | .noticeMove => Sys2Proof.Machine.execNoticeMove s
  | .refillExpiry => Sys2Proof.Machine.execRefillExpiry s

end Sys2Proof.Machine
end

