-- ==== Sys2Proof/WellFormed.lean ====
section
/-! DEFINITION. Well-formedness: of commands, stream table entries and feed settings. -/

namespace Sys2Proof

/-- A command is well formed: always, since the operand types hold the feeds F0 to F3, the slots 0 to 255 and byte
strings of any length (R97 says what becomes of a frame of the wrong length), and nothing else. -/
def Instr.wellFormed (_i : Instr) : Bool := true

namespace Machine

/-- Every field of an entry lies in its range, its feed list is one to four distinct feeds, and its tag is not
0xFFFF (R4, R5, R7). -/
def Entry.wellFormed (e : Entry) : Bool := e.inRange && feedListOk e.feeds && e.tag != Config.managementTag

/-- Settings a monitor may hold (R79). -/
def Settings.wellFormed (c : Settings) : Bool := c.inRange

end Machine

end Sys2Proof
end

