-- ==== Sys2Proof/Safety.lean ====
section
/-! DEFINITION. What counts as a consistent state of the part (the invariants of the spec's "at every moment" rules),
and the words in which statements about commands are put: an admitted copy, what releases and losses leave with the
delivery link up and down, a reviewed selector, a waiting command, a reply handed over. -/

namespace Sys2Proof.Machine

/-! ### Invariants -/

/-- Every one of the 512 buffers is in exactly one use (R107), and the pressure flag is set only below 32 free buffers
(R110). -/
abbrev State.poolBalanced (s : State) : Prop :=
  s.pool.free + s.heldEntries + s.dataQueue.length + s.delivery.transmitter.dataFrames = 512 ∧
    (s.pool.pressure = true → s.pool.free < 32)

/-- The delivery port's bounds (R112, R113), the reply wait holds replies only (R112), and with the link down every
queue is empty, the data run is 0 and the transmitter is idle (R115 to R117). -/
abbrev State.deliveryBounded (s : State) : Prop :=
  s.delivery.controlQueue.length ≤ 8 ∧ noticeFrames s.delivery.controlQueue ≤ 6 ∧
    (∀ f ∈ s.delivery.replyWait, f.kind = .reply) ∧ s.delivery.dataRun ≤ 4 ∧
    (s.delivery.linkUp = false → s.dataQueue = [] ∧ s.delivery.controlQueue = [] ∧ s.delivery.replyWait = [] ∧
      s.delivery.transmitter = .idle ∧ s.delivery.dataRun = 0)

/-- The management engine's bounds: the inbox (R120), and the staging list, of at most 16 changes for distinct slots
(R123, R145). -/
abbrev State.managementBounded (s : State) : Prop :=
  s.inbox.length ≤ 4 ∧ s.stagingList.length ≤ 16 ∧ (s.stagingList.map (·.slot)).Nodup

/-- The notice unit's bounds: at most 32 records, no two of one kind and subject (R159), repeat counts 1 to 255 (R158),
credits within the maximum, and settings within their ranges (R137, R139, R162). -/
abbrev State.noticesBounded (s : State) : Prop :=
  s.notices.queue.length ≤ 32 ∧ (s.notices.queue.map fun r => (r.kind, r.subject)).Nodup ∧
    (∀ r ∈ s.notices.queue, 1 ≤ r.repeats ∧ r.repeats ≤ 255) ∧
    1 ≤ s.notices.creditMax ∧ s.notices.creditMax ≤ 16 ∧ s.notices.credits ≤ s.notices.creditMax ∧
    1 ≤ s.notices.refillInterval ∧ s.notices.refillInterval ≤ 1000 ∧ s.notices.mask &&& 0x1FFF = s.notices.mask

/-- The standby bank and the live bank agree as the table engine's state says (R148, R151, R155): equal, or one commit's
change list apart. -/
abbrev State.banksAgree (s : State) : Prop :=
  match s.engine with
  | .ready => s.standbyBank = s.liveBank
  | .preparing _ false => s.standbyBank = s.liveBank
  | .preparing c true => s.standbyBank = s.liveBank.applyChanges c.changes
  | .syncing cs _ => s.standbyBank.applyChanges cs = s.liveBank

/-- A bank's index maps exactly the tags of its ENABLED entries to their slots, each tag once (R5, R16, R17). -/
abbrev Bank.indexed (b : Bank) : Prop :=
  (∀ m ∈ b.index, ∃ e, rd b.slots m.2 = some e ∧ e.enabled = true ∧ e.tag = m.1) ∧
    (∀ i e, rd b.slots i = some e → e.enabled = true → (e.tag, i) ∈ b.index) ∧ (b.index.map (·.1)).Nodup

/-- Every entry of a bank is well formed (R4, R5, R7). -/
abbrev Bank.inRange (b : Bank) : Prop := ∀ i e, rd b.slots i = some e → e.wellFormed = true

/-- Every entry that a change list writes is well formed. -/
abbrev changesInRange (cs : List StagedChange) : Prop := ∀ ch ∈ cs, ∀ e, ch.change = .write e → e.wellFormed = true

/-- A change list names distinct slots, writes well-formed entries, and leaves bank `b` with distinct tags (R145,
R149). -/
abbrev changesFit (b : Bank) (cs : List StagedChange) : Prop :=
  (cs.map (·.slot)).Nodup ∧ changesInRange cs ∧
    ∀ i j e e', i ≠ j → rd (b.applyChanges cs).slots i = some e → rd (b.applyChanges cs).slots j = some e' →
      e.enabled = true → e'.enabled = true → e.tag ≠ e'.tag

/-- The change lists the table engine has in hand fit the bank they will be applied to. -/
abbrev State.commitsFit (s : State) : Prop :=
  match s.engine with
  | .ready => True
  | .preparing c _ => changesFit s.liveBank c.changes
  | .syncing cs none => changesFit s.standbyBank cs
  | .syncing cs (some q) => changesFit s.standbyBank cs ∧ changesFit s.liveBank q.changes

/-- Both banks hold entries in range with distinct ENABLED tags, correctly indexed, and stay so under every change list
in hand (R4, R5, R16). -/
abbrev State.tablesSound (s : State) : Prop :=
  s.banksAgree ∧ s.liveBank.indexed ∧ s.standbyBank.indexed ∧ s.liveBank.inRange ∧ s.standbyBank.inRange ∧
    s.commitsFit ∧ (s.stagingList.map (·.slot)).Nodup ∧ changesInRange s.stagingList

/-- A monitor's record is consistent: settings in range and pending advisory and disabled as current (R79, R90), the
feed state agrees with the link and the disabled setting (R84), a window runs in the states that have one (R78), the
runs are in range and, in service, below the count that ends it (R78, R84), and usability is as R87 says. -/
abbrev Monitor.consistent (m : Monitor) : Prop :=
  m.current.wellFormed = true ∧
    (∀ p ∈ m.pending, p.wellFormed = true ∧ p.advisory = m.current.advisory ∧ p.disabled = m.current.disabled) ∧
    (m.pending.isSome = true → m.window.isSome = true) ∧
    (m.state = .disabled ↔ m.current.disabled = true) ∧ (m.state = .down → m.link = false) ∧
    (m.state.runsWindow = true → m.link = true) ∧ m.window.isSome = m.state.runsWindow ∧
    (m.state.runsWindow = false → m.acceptedRun = 0 ∧ m.rejectTally = 0) ∧ m.acceptedRun ≤ 15 ∧
    m.rejectTally ≤ 15 ∧ (m.state = .inService → m.rejectTally < m.current.disqualify) ∧ m.usable = m.usability

/-- Every monitor is consistent, and the latch of an unusable feed is set (R88). -/
abbrev State.feedsConsistent (s : State) : Prop :=
  ∀ f : Feed, (rd s.monitors f).consistent ∧ ((rd s.monitors f).usable = false → rd s.feedLatches f = true)

/-- The record of a slot without an ENABLED live entry: DISABLED, with every field but the counters absent or empty
(R3, R21). -/
abbrev Runtime.idle (r : Runtime) : Prop := r = Runtime.disabled r.counters

/-- A selector part agrees with the table of R62: its active feed and its rescue run's feed are of the list, and the state
says whether an active feed and a hold-off timer are present. -/
abbrev Selector.agrees (feeds : List Feed) (q : Selector) : Prop :=
  (∀ a ∈ q.active, a ∈ feeds) ∧ (∀ k ∈ q.rescueRun, k.feed ∈ feeds ∧ 1 ≤ k.count) ∧
    match q.state with
    | .noFeed => q.active = none ∧ q.holdOff = none
    | .primary | .backup => q.active.isSome = true ∧ q.holdOff = none
    | .revertWait => q.active.isSome = true ∧ q.holdOff.isSome = true

/-- The record of a slot whose live entry `e` is ENABLED: the fields each merge state holds (R21), the hold limit
(R11, R22) and held copies of listed feeds (R24, R154), and a selector part exactly when the mode is PREFERRED (R6, R20),
which agrees with the table of R62. -/
abbrev Runtime.follows (e : Entry) (r : Runtime) : Prop :=
  r.mergeState ≠ .disabled ∧
    (r.mergeState = .seeking → r.nes = none ∧ r.hold = [] ∧ r.due = none) ∧
    (r.mergeState = .tracking ∨ r.mergeState = .bridging → r.nes.isSome = true ∧ r.due.isSome = true) ∧
    (r.mergeState = .starved → r.nes.isSome = true ∧ r.hold = [] ∧ r.due = none) ∧
    r.hold.length ≤ e.holdLimit ∧ (∀ h ∈ r.hold, h.feed ∈ e.feeds) ∧ (r.selector = none ↔ e.mode = .first) ∧
    ∀ q ∈ r.selector, q.agrees e.feeds

/-- Every runtime record follows its slot's live state (R3, R21), with the banks as the table engine's state says. -/
abbrev State.recordsFollow (s : State) : Prop :=
  s.banksAgree ∧ ∀ i : Slot, (s.enabledEntry i = none → (rd s.runtimes i).idle) ∧
    ∀ e, s.enabledEntry i = some e → (rd s.runtimes i).follows e

/-- A copy from feed `f` is deliverable to a stream with entry `e` and record `r`: the mode is FIRST, or `f` is the
active feed (R25). -/
abbrev deliverableFrom (e : Entry) (r : Runtime) (f : Feed) : Prop := e.mode = .first ∨ r.active = some f

/-- A hold list stands in rising order of distance from `n`, no entry beyond the window (R22). -/
abbrev holdOrdered (w : Nat) (n : Seq) (hold : List Copy) : Prop :=
  (hold.map fun h => dist n h.seq).Pairwise (· < ·) ∧ ∀ h ∈ hold, dist n h.seq ≤ w

/-- Every hold list of a stream with a NES is ordered within the window of its live entry (R10, R22), and an entry equal to
NES, the fallback, is not deliverable: its stream is PREFERRED, and its feed is not active (R22); with the banks as the
table engine's state says and the records as R3 and R21 say. -/
abbrev State.holdsOrdered (s : State) : Prop :=
  s.recordsFollow ∧ ∀ (i : Slot) (e : Entry) (n : Seq), s.enabledEntry i = some e → (rd s.runtimes i).nes = some n →
    let r := rd s.runtimes i
    holdOrdered e.window n r.hold ∧ ∀ h ∈ r.hold, h.seq = n → ¬deliverableFrom e r h.feed

/-! ### Copies -/

/-- Feed `f`'s oldest offered copy is `copy`, before `rest`, and it passes the lookup and the admission checks for slot
`i` under its live entry `e` (R17, R24). -/
abbrev State.admits (s : State) (f : Feed) (copy : Copy) (rest : List Copy) (i : Slot) (e : Entry) : Prop :=
  (rd s.ports f).offered = copy :: rest ∧ copy.feed = f ∧ s.lookup copy.tag = some i ∧ s.enabledEntry i = some e ∧
    (rd s.monitors f).usable = true ∧ f ∈ e.feeds ∧ (e.origin = none ∨ e.origin = some copy.origin)

/-- The state with the oldest offered copy of feed `f` taken and `rest` left (R99). -/
def State.taken (s : State) (f : Feed) (rest : List Copy) : State :=
  s.setPort f { rd s.ports f with offered := rest }

/-- The stream is being followed: TRACKING or BRIDGING. -/
abbrev Runtime.followed (r : Runtime) : Prop := r.mergeState = .tracking ∨ r.mergeState = .bridging

/-! ### Selectors (R69 to R73) -/

/-- The feed of an entry's list that is best usable at this moment (R63). -/
def State.bestUsable (s : State) (e : Entry) : Option Feed := e.feeds.find? fun g => (rd s.monitors g).usable

/-- The feed is in the entry's list and usable: an active feed that is not listed counts as not usable (R75; log 20). -/
abbrev State.serves (s : State) (e : Entry) (a : Feed) : Prop := a ∈ e.feeds ∧ (rd s.monitors a).usable = true

/-- A selector part newly created or re-evaluated: at the best usable feed, or at none (R64, R65). -/
def State.selectorAtBest (s : State) (e : Entry) : Selector :=
  { state := if s.bestUsable e = none then .noFeed else .primary, active := s.bestUsable e, holdOff := none
    rescueRun := none, reviewPending := false }

/-- The selector after an evaluation that switches at once: at the best usable feed, or at none (R69). -/
def State.switchedAtOnce (s : State) (e : Entry) (q : Selector) : Selector :=
  { s.selectorAtBest e with
    rescueRun := if s.bestUsable e = q.active then q.rescueRun else none
    reviewPending := q.reviewPending }

/-- The selector after a review under entry `e` with selection part `p`: an immediate switch when the active feed is
absent or not usable (R69), and else the row of the table of R70. -/
def State.reviewed (s : State) (e : Entry) (p : SelectionPart) (q : Selector) : Selector :=
  let q0 := { q with reviewPending := false }
  if ¬∃ a ∈ q.active, s.serves e a then s.switchedAtOnce e q0
  else if s.bestUsable e = q.active then { q0 with state := .primary, holdOff := none }
  else if p.revertive = false then { q0 with state := .backup, holdOff := none }
  else if q.holdOff.isSome = true then { q0 with state := .revertWait }
  else if 1 ≤ p.holdOff then { q0 with state := .revertWait, holdOff := some (s.elapsed + p.holdOff * 1000) }
  else s.switchedAtOnce e q0

/-- The state and hold-off timer that the table of R72 gives a stream at a rescue switch to feed `g`. -/
def State.rescueRow (s : State) (e : Entry) (p : SelectionPart) (g : Feed) (timer : Option Moment) :
    SelectorState × Option Moment :=
  if s.bestUsable e = some g then (.primary, none)
  else if p.revertive = false then (.backup, none)
  else
    match timer with
    | some x => (.revertWait, some x)
    | none => if p.holdOff = 0 then (.backup, none) else (.revertWait, some (s.elapsed + p.holdOff * 1000))

/-- The count of the rescue run after one more rescue by feed `g` (R72). -/
def rescueCount (run : Option RescueRun) (g : Feed) : Nat :=
  match run with
  | some r => if r.feed = g then r.count + 1 else 1
  | none => 1

/-- The selector after a rescue by feed `g` (R72): as it was when `g` is not usable; with the rescue run counted; or, when
the count reaches the threshold, switched to `g` with the run cleared. -/
def State.rescued (s : State) (e : Entry) (p : SelectionPart) (g : Feed) (q : Selector) : Selector :=
  if (rd s.monitors g).usable = false then q
  else if rescueCount q.rescueRun g = p.rescueThreshold then
    { q with
      state := (s.rescueRow e p g q.holdOff).1, active := some g, holdOff := (s.rescueRow e p g q.holdOff).2
      rescueRun := none }
  else { q with rescueRun := some { feed := g, count := rescueCount q.rescueRun g } }

/-- The selector after the release of a copy from feed `g` (R27, R72): a release from the active feed clears the rescue
run, and a rescue is reported. -/
def State.reported (s : State) (e : Entry) (r : Runtime) (g : Feed) : Option Selector :=
  if deliverableFrom e r g then r.selector.map fun q => { q with rescueRun := none }
  else
    match e.mode with
    | .first => r.selector
    | .preferred p => r.selector.map fun q => s.rescued e p g q

/-! ### Notices -/

/-- A notice about a stream (R158). -/
def streamNotice (i : Slot) (e : Entry) (kind : NoticeKind) (detail : BitVec 16) : Notice :=
  ⟨kind, .stream i, e.tag, detail⟩

/-- STREAM_RECOVERED, for a stream that was BRIDGING (R32, R51). -/
def recoveredNotice (i : Slot) (e : Entry) (r : Runtime) : List Notice :=
  if r.mergeState = .bridging then [streamNotice i e .streamRecovered 0] else []

/-- POOL_EXHAUSTED, for a refusal that sets the pressure flag (R110). -/
def exhaustedNotice (p : Pool) : List Notice := if p.pressure = true then [] else [partNotice .poolExhausted]

/-- POOL_RECOVERED, where it is raised (R110). -/
def poolRecovered (when : Prop) [Decidable when] : List Notice := if when then [partNotice .poolRecovered] else []

/-- ACTIVE_SWITCH, where the active feed changes (R73). -/
def switchNotice (i : Slot) (e : Entry) (before after : Option Feed) : List Notice :=
  if before = after then [] else [streamNotice i e .activeSwitch (feedOrNone before ++ feedOrNone after)]

/-- STREAM_GAP for the sequences from `n` up to `m` − 1, where there is one (R28). -/
def gapNotices (i : Slot) (e : Entry) (n m : Seq) : List Notice :=
  if n = m then [] else [streamNotice i e .streamGap (m - n)]

/-- The state with notices raised behind those that wait. -/
def NoticeUnit.raising (u : NoticeUnit) (ns : List Notice) : NoticeUnit := { u with raised := u.raised ++ ns }

/-- The resync candidate after an out-of-window copy, by the rows of the table of R39. -/
abbrev candidateRow (window : Nat) (before : Option Candidate) (s : Seq) (after : Candidate) : Prop :=
  match before with
  | none => after = { seq := s, count := 1 }
  | some k =>
    (s = k.seq ∧ after = k) ∨
      (1 ≤ dist k.seq s ∧ dist k.seq s ≤ window ∧ after = { seq := s, count := k.count + 1 }) ∨
      (window < dist k.seq s ∧ after = { seq := s, count := 1 })

/-- The state after feed `f`'s oldest copy is taken for slot `i` and refused a buffer: a no-buffer drop, with the pressure
flag set (R26, R110). -/
def State.dropping (s : State) (f : Feed) (rest : List Copy) (i : Slot) : State :=
  let r := rd s.runtimes i
  { (s.taken f rest).setRuntime i { r with
      counters := { r.counters with noBufferDrops := satInc r.counters.noBufferDrops } } with
    pool := { s.pool with pressure := true }
    notices := s.notices.raising (exhaustedNotice s.pool) }

/-! ### Buffers freed, and what becomes of released frames (R109 to R111, R116) -/

/-- The pool after `n` buffers are freed: the pressure flag is cleared where 32 are free then (R110). -/
def Pool.freed (p : Pool) (n : Nat) : Pool :=
  { free := p.free + n, pressure := if 1 ≤ n ∧ p.pressure = true ∧ 32 ≤ p.free + n then false else p.pressure }

/-- POOL_RECOVERED, where those frees clear the pressure flag (R110). -/
def Pool.freedNotice (p : Pool) (n : Nat) : List Notice :=
  poolRecovered (1 ≤ n ∧ p.pressure = true ∧ 32 ≤ p.free + n)

/-- The pool after a granted claim (R108). -/
def Pool.claimed (p : Pool) : Pool := { p with free := p.free - 1 }

/-- The released frames that join the data queue: all while the delivery link is up (R111), none while it is down
(R116). -/
def State.handed (s : State) (frames : List Frame) : List Frame := if s.delivery.linkUp = true then frames else []

/-- How many of `n` released frames are discarded as undeliverable, with their buffers freed: none while the delivery link
is up, all while it is down (R116). -/
def State.undelivered (s : State) (n : Nat) : Nat := if s.delivery.linkUp = true then 0 else n

/-! ### Releases and losses (R25 to R32, R36, R74) -/

/-- The release of a copy from feed `f` would be a rescue (R25). -/
def rescues (e : Entry) (r : Runtime) (f : Feed) : Bool := !decide (deliverableFrom e r f)

/-- The record after the sequences from `n` up to `m` − 1 are declared lost: one gap event when there is one (R28). -/
def Runtime.losing (r : Runtime) (n m : Seq) : Runtime :=
  if n = m then r
  else
    { r with
      nes := some m
      gapMark := true
      counters := { r.counters with
        gapEvents := satInc r.counters.gapEvents
        lostSequences := satAdd r.counters.lostSequences (m - n).toNat } }

/-- The latches after that declaration (R28). -/
def State.latchesLosing (s : State) (i : Slot) (n m : Seq) : Vector Bool 256 :=
  if n = m then s.streamLatches else wr s.streamLatches i true

/-- The record after the release of a copy (R27): NES follows it, the gap mark has gone with it, the placeholder run is 0,
it is counted, as undeliverable too while the delivery link is down (R116), and the selector has the report. -/
def State.releasing (s : State) (e : Entry) (r : Runtime) (copy : Copy) : Runtime :=
  { r with
    nes := some (copy.seq + 1)
    placeholderRun := 0
    gapMark := false
    selector := s.reported e r copy.feed
    counters := { r.counters with
      delivered := satInc r.counters.delivered
      rescued := if rescues e r copy.feed then satInc r.counters.rescued else r.counters.rescued
      undeliverable := satAdd r.counters.undeliverable (s.undelivered 1) } }

/-- The record after the release of copies in order. -/
def State.releasingAll (s : State) (e : Entry) (r : Runtime) (copies : List Copy) : Runtime :=
  copies.foldl (s.releasing e) r

/-- The frames of copies released in order that join the data queue (R27, R31, R116). -/
def State.releaseFrames (s : State) (e : Entry) : Runtime → List Copy → List Frame
  | _, [] => []
  | r, h :: t =>
    s.handed [copyFrame h (rescues e r h.feed) r.gapMark false false] ++ s.releaseFrames e (s.releasing e r h) t

/-- The notices of copies released in order, from the pool `p`: POOL_RECOVERED for a buffer freed while the delivery link is
down (R116), and the switches that rescues bring about (R72, R73). -/
def State.releaseNotices (s : State) (i : Slot) (e : Entry) : Pool → Runtime → List Copy → List Notice
  | _, _, [] => []
  | p, r, h :: t =>
    p.freedNotice (s.undelivered 1) ++ switchNotice i e r.active (s.releasing e r h).active ++
      s.releaseNotices i e (p.freed (s.undelivered 1)) (s.releasing e r h) t

/-- The hold list `hold` parts at the release run of R31 from NES `n`: `run` holds the sequences from `n` on, each from a
feed that `ok` lets go, and `left` stays because its head is not the next sequence or its feed is kept. -/
abbrev releaseSplit (ok : Feed → Prop) (n : Seq) (hold run left : List Copy) : Prop :=
  hold = run ++ left ∧ run.map (·.seq) = (List.range run.length).map (fun k => n + BitVec.ofNat 16 k) ∧
    (∀ h ∈ run, ok h.feed) ∧ ∀ h ∈ left.head?, ¬(h.seq = n + BitVec.ofNat 16 run.length ∧ ok h.feed)

/-- A record after the close of an event that released a copy, with the due expiry given (R32, R74). -/
def Runtime.closed (r : Runtime) (due : Moment) : Runtime :=
  { r with mergeState := if r.mergeState = .bridging then .tracking else r.mergeState, due := some due, candidate := none }

/-- The hold list parts at the run that the re-examination after a switch to `dest` releases (R74). -/
abbrev reexamined (r : Runtime) (dest : Option Feed) (run left : List Copy) : Prop :=
  match r.nes with
  | none => run = [] ∧ left = r.hold
  | some n => releaseSplit (fun g => dest = some g) n r.hold run left

/-- The record after a re-examination that releases `run` (R74). -/
def State.reexamine (s : State) (e : Entry) (r : Runtime) (run left : List Copy) : Runtime :=
  if run = [] then r
  else ({ s.releasingAll e r run with hold := left } : Runtime).closed (s.elapsed + (e.period + e.slack))

/-- The state after an event of slot `i` that left the record `r` with a switch from `before`, and the re-examination that
released `run` (R73, R74). -/
def State.switching (s : State) (i : Slot) (e : Entry) (r : Runtime) (before : Option Feed) (run left : List Copy) :
    State :=
  { s.setRuntime i (s.reexamine e r run left) with
    pool := s.pool.freed (s.undelivered run.length)
    dataQueue := s.dataQueue ++ s.releaseFrames e r run
    notices := s.notices.raising (switchNotice i e before r.active ++ s.releaseNotices i e s.pool r run ++
      if run = [] then [] else recoveredNotice i e r) }

/-- The hold list after the trim of a retune to entry `e`: entries of listed feeds, within the window, the nearest up to the
hold limit (R154); nothing is held while NES is absent (R21). -/
def Runtime.trimmed (r : Runtime) (e : Entry) : List Copy :=
  match r.nes with
  | none => []
  | some n => ((r.hold.filter fun h => h.feed ∈ e.feeds).filter fun h => dist n h.seq ≤ e.window).take e.holdLimit

/-! ### Commands of the consumer -/

/-- Each field stands in the data at its offset (R132). -/
abbrev fieldsAt (data : List Byte) (fields : List (Nat × List Byte)) : Prop :=
  ∀ x ∈ fields, (data.drop x.1).take x.2.length = x.2

/-- The row that takes a received command: its code is the row's, and for RESET_PART the level (R103, R143). -/
def takesCommand (i : Instr) (c : Command) : Bool :=
  match i with
  | .openSession => c.code == 0x01
  | .closeSession => c.code == 0x02
  | .status => c.code == 0x10
  | .readStream => c.code == 0x11
  | .readFeed => c.code == 0x12
  | .readNotices => c.code == 0x13
  | .setFeed => c.code == 0x20
  | .setNotices => c.code == 0x21
  | .clearCounters => c.code == 0x22
  | .restartStream => c.code == 0x23
  | .ackAlarms => c.code == 0x24
  | .resetPartRestart => c.code == 0x2F && c.args != [2]
  | .resetPartClear => c.code == 0x2F && c.args == [2]
  | .stageWrite => c.code == 0x30
  | .stageRemove => c.code == 0x31
  | .unstage => c.code == 0x32
  | .commit => c.code == 0x33
  | .unknownCommand =>
    !([0x01, 0x02, 0x10, 0x11, 0x12, 0x13, 0x20, 0x21, 0x22, 0x23, 0x24, 0x2F, 0x30, 0x31, 0x32, 0x33] : List Byte).contains c.code
  | _ => false

/-- The session commands (8.3). -/
def sessionCommands : List Instr :=
  [.closeSession, .setFeed, .setNotices, .clearCounters, .restartStream, .ackAlarms, .resetPartRestart,
   .resetPartClear, .stageWrite, .stageRemove, .unstage, .commit]

/-- The open commands other than OPEN_SESSION, and unknown codes (8.3, R122). -/
def openCommands : List Instr := [.status, .readStream, .readFeed, .readNotices, .unknownCommand]

/-- The number of argument bytes a command takes, for the commands whose rule names one number (R132). -/
def argumentLength (i : Instr) : Option Nat :=
  match i with
  | .closeSession | .status | .readNotices => some 0
  | .readFeed | .restartStream | .resetPartRestart | .stageRemove | .unstage => some 1
  | .readStream | .clearCounters | .ackAlarms => some 2
  | .commit => some 4
  | .setNotices => some 5
  | .setFeed => some 10
  | .stageWrite => some 24
  | _ => none

/-- The management engine can take a command: `c` stands at the front of the inbox and no reply waits (R121). -/
abbrev State.waiting (s : State) (c : Command) (rest : List Command) : Prop :=
  s.delivery.replyWait = [] ∧ s.inbox = c :: rest

/-- No session is open under the command's token (R122). -/
abbrev State.foreignToken (s : State) (c : Command) : Prop := s.session.any (fun ss => ss.token == c.token) = false

/-- A session is open under the command's token, and the command's sequence is the next (R123). -/
abbrev State.nextInSession (s : State) (c : Command) : Prop :=
  s.session.any (fun ss => ss.token == c.token && c.seq == ss.last + 1) = true

/-- The state with a reply's frame handed to the delivery port: discarded while the link is down (R116); at the back of the
control queue, when no reply waits and it has a place; and else behind the replies that wait (R112). -/
def State.sending (s : State) (f : Frame) : State :=
  { s with delivery :=
      if s.delivery.linkUp = false then s.delivery
      else if s.delivery.replyWait = [] ∧ s.delivery.controlQueue.length < 8 then
        { s.delivery with controlQueue := s.delivery.controlQueue ++ [f] }
      else { s.delivery with replyWait := s.delivery.replyWait ++ [f] } }

/-- The state with the reply to `c` handed to the delivery port (R104, R121). -/
def State.replied (s : State) (c : Command) (r : ResultCode) (d : List Byte) : State :=
  s.sending (replyFrame { token := c.token, seq := c.seq, code := c.code, result := r, data := d })

/-- The state with the open session's idle timer restarted at its timeout (R128). -/
def State.idleRestarted (s : State) : State :=
  { s with session := s.session.map fun ss =>
      { ss with idleExpiry := s.elapsed + ss.idleTimeout * 1000000 } }

/-- The state with the reply to `c` placed, and recorded under the open session with its sequence and a restarted idle
timer (R123, R128). -/
def State.executed (s : State) (c : Command) (r : ResultCode) (d : List Byte) : State :=
  { s.replied c r d with session := s.session.map fun ss =>
      { ss with
        last := c.seq
        cache := .reply { token := c.token, seq := c.seq, code := c.code, result := r, data := d }
        idleExpiry := s.elapsed + ss.idleTimeout * 1000000 } }

/-- The state with the command at the front of the inbox taken and `rest` left (R120). -/
def State.inboxLeft (s : State) (rest : List Command) : State := { s with inbox := rest }

end Sys2Proof.Machine
end

