-- ==== Sys2Proof/Certificates/Slice0/Obligations.lean ====
section
/-! DEFINITION. The statements for the provers. -/

open Sys2Proof Sys2Proof.Machine

/-! ### Steps, resets, and what every command leaves alone -/

/-- A step takes the command at the front of the queue and executes it on the state with the queue's rest. On an empty
queue one microsecond of part time passes: the model's choice (log 1). -/
def Obligations.StepRunsFrontCommand : Prop :=
  (∀ (c : Instr) (rest : List Instr) (s : State),
    step { s with pending := c :: rest } = exec c { s with pending := rest }) ∧
  ∀ s : State, ∃ t, step { s with pending := [] } = .next t ∧ t = { s with pending := [], elapsed := s.elapsed + 1 } ∧
    t.partTime = s.partTime + 1

/-- Every command completes in every state, as the model chooses (a command whose event cannot occur changes nothing: log
2; states that no run reaches answer a next state too: log 19), and leaves the queue of waiting commands alone; part time
changes only at POR (R2; that it stands still within a command is the model's choice, log 1); the live bank's contents,
the selector and the generation change only at SWAP, CLEAR and POR (R15, R152). -/
def Obligations.CommandsKeepTimeTableAndQueue : Prop :=
  ∀ (c : Instr) (s : State), ∃ t, exec c s = .next t ∧ t.pending = s.pending ∧
    (c ≠ .por → t.elapsed = s.elapsed) ∧
    (c ≠ .por → c ≠ .swap → c ≠ .resetPartClear →
      t.live = s.live ∧ t.liveBank = s.liveBank ∧ t.generation = s.generation)

/-- Frames only join the data queue at its back: but for the start of a transmission, a delivery link-down event and the
resets, the data queue before a command is the front of the data queue after it (R111). -/
def Obligations.DataQueueGrowsAtTheBack : Prop :=
  ∀ (c : Instr) (s t : State), exec c s = .next t → c ≠ .por → c ≠ .transmissionStart → c ≠ .deliveryLinkDown →
    c ≠ .resetPartRestart → c ≠ .resetPartClear → s.dataQueue <+: t.dataQueue

/-- POR leaves every register, queue, timer and latch at its power-on value. Four of the values are the model's (log 11,
DEDUCED from the spec): no copy offered, no feed event and no notice waiting, and the delivery link's receive store
empty. The waiting commands are the model's own queue, which POR keeps. -/
def Obligations.PowerOnValues : Prop :=
  ∀ s : State, ∃ t, exec .por s = .next t ∧ t.pending = s.pending ∧ t.elapsed = 0 ∧ t.partTime = 0 ∧
    (∀ f : Feed, rd t.ports f = { receiveStore := [], offered := [] } ∧ rd t.feedEvents f = 0 ∧
      rd t.feedLatches f = true ∧
      rd t.monitors f = {
        state := .down, link := false, current := ⟨10000, 1, 0, 4, 3, 2, false, false⟩, pending := none,
        window := none, acceptedRun := 0, rejectTally := 0, usable := false,
        counters := ⟨0, 0, 0, 0, 0, 0, 0, 0, 0⟩ }) ∧
    (∀ i : Slot, rd t.bankA.slots i = none ∧ rd t.bankB.slots i = none ∧ rd t.streamLatches i = false ∧
      rd t.runtimes i = {
        mergeState := .disabled, nes := none, hold := [], candidate := none, due := none,
        placeholderRun := 0, gapMark := false, selector := none,
        counters := ⟨0, 0, 0, 0, 0, 0, 0, 0, 0, 0, 0, 0, 0⟩ }) ∧
    t.bankA.index = [] ∧ t.bankB.index = [] ∧ t.live = .a ∧ t.generation = 0 ∧ t.engine = .ready ∧
    t.pool = { free := 512, pressure := false } ∧ t.dataQueue = [] ∧
    t.delivery = {
      linkUp := false, receiveStore := [], controlQueue := [], replyWait := [], transmitter := .idle,
      dataRun := 0, errored := 0, foreign := 0, flushed := 0 } ∧
    t.inbox = [] ∧ t.inboxOverflows = 0 ∧ t.session = none ∧
    t.notices = {
      earlier := [], raised := [], queue := [], lost := 0, mask := 0x1FFF, creditMax := 8, credits := 8,
      refillInterval := 50, refillExpiry := 50000 } ∧
    t.alert = true

/-- The state after reset meets every invariant of the model. -/
def Obligations.ResetMeetsInvariants : Prop :=
  State.reset.poolBalanced ∧ State.reset.deliveryBounded ∧ State.reset.managementBounded ∧
    State.reset.noticesBounded ∧ State.reset.banksAgree ∧ State.reset.tablesSound ∧ State.reset.feedsConsistent ∧
    State.reset.recordsFollow ∧ State.reset.holdsOrdered

/-! ### Invariants that every step keeps -/

/-- The 512 buffers: every step keeps each of them in exactly one use (R107), and the pressure flag set only below 32
free buffers (R110). -/
def Obligations.EveryBufferHasOneUse : Prop :=
  ∀ s t : State, s.poolBalanced → step s = .next t → t.poolBalanced

/-- The control queue never holds more than 8 frames nor more than 6 notices, the reply wait holds replies only, the data
run stays at 4 or below, and while the delivery link is down every queue of the port is empty. -/
def Obligations.DeliveryPortStaysBounded : Prop :=
  ∀ s t : State, s.deliveryBounded → step s = .next t → t.deliveryBounded

/-- The inbox never holds more than 4 commands, and the staging list never more than 16 changes nor two for one slot. -/
def Obligations.InboxAndStagingStayBounded : Prop :=
  ∀ s t : State, s.managementBounded → step s = .next t → t.managementBounded

/-- The notice queue never holds more than 32 records nor two of one kind and subject, repeat counts stay from 1 to 255,
and credits, maximum, interval and mask stay in range. -/
def Obligations.NoticeUnitStaysBounded : Prop :=
  ∀ s t : State, s.noticesBounded → step s = .next t → t.noticesBounded

/-- The two banks are always equal, or one commit's change list apart, as the table engine's state says. -/
def Obligations.BanksStayOneCommitApart : Prop :=
  ∀ s t : State, s.banksAgree → step s = .next t → t.banksAgree

/-- In both banks, at every moment, entries are in range, no two ENABLED entries have one tag, no entry has the reserved
tag, and the index maps exactly the ENABLED tags. -/
def Obligations.TagsStayDistinctAndIndexed : Prop :=
  ∀ s t : State, s.tablesSound → step s = .next t → t.tablesSound

/-- Monitors stay consistent: settings in range, states in step with link, window and disabled setting, usability as
published, and the latch of an unusable feed set. (That pending and current settings agree in advisory and disabled, and
that usability is read from the current ones, is the model's reading: log 8.) -/
def Obligations.FeedMonitorsStayConsistent : Prop :=
  ∀ s t : State, s.feedsConsistent → step s = .next t → t.feedsConsistent

/-- Each runtime record follows its slot's live state, holds in each merge state the fields of the table of R21 and only
copies of listed feeds, and has a selector part exactly for a PREFERRED entry, whose state, active feed and hold-off timer
agree as the table of R62 shows, with a listed active feed. -/
def Obligations.RecordsFollowTheLiveTable : Prop :=
  ∀ s t : State, s.recordsFollow → step s = .next t → t.recordsFollow

/-- Every hold list stays in strictly ascending order of distance from NES, with no entry beyond the window, and an entry
equal to NES is held for a PREFERRED stream only, from a feed that is not active. -/
def Obligations.HoldListsStayOrdered : Prop :=
  ∀ s t : State, s.holdsOrdered → step s = .next t → t.holdsOrdered

/-! ### Records and frames on the wire -/

/-- A record the part sends reads back as what it encodes: a stream entry record stages the same entry again (R105), and
a feed settings record gives the same settings (R136, R138). -/
def Obligations.RecordsReadBackAsSent : Prop :=
  (∀ e : Entry, e.wellFormed = true → (entryRecord e).length = 23 ∧ checkRecord (entryRecord e) = .ok e) ∧
  (∀ (r : List Byte) (e : Entry), checkRecord r = .ok e → e.wellFormed = true ∧ checkRecord (entryRecord e) = .ok e) ∧
  ∀ c : Settings, c.wellFormed = true → (settingsRecord c).length = 9 ∧ settingsOfRecord (settingsRecord c) = c

/-- A frame the part sends passes the tests of R97, and its fields stand where the layout of 6.6.1 puts them; the marks
byte of a released copy is as R102 says, and its other fields are the copy's. -/
def Obligations.SentFramesAreValid : Prop :=
  (∀ f : Frame, f.payload.length ≤ 240 → f.wire.length = 12 + f.payload.length ∧ frameErrored f.wire = false ∧
    byteAt f.wire 0 = f.kind.code ∧ byteAt f.wire 1 = f.marks ∧ word16At f.wire 2 = f.tag ∧
    word16At f.wire 4 = f.seq ∧ byteAt f.wire 6 = f.origin ∧ framePayload f.wire = f.payload) ∧
  ∀ (c : Copy) (rescued gap resync seek : Bool),
    let f := copyFrame c rescued gap resync seek
    f.kind = .sample ∧ f.tag = c.tag ∧ f.seq = c.seq ∧ f.origin = c.origin ∧ f.payload = c.payload ∧
      (f.marks.extractLsb' 0 2).toNat = c.feed.val ∧ f.marks.getLsbD 2 = rescued ∧ f.marks.getLsbD 3 = false ∧
      f.marks.getLsbD 4 = gap ∧ f.marks.getLsbD 5 = resync ∧ f.marks.getLsbD 6 = seek ∧ f.marks.getLsbD 7 = false

/-! ### Feeds -/

/-- FEED_FRAME_RECEIVED: the rows of R98 on the frame that the receive store and the rest spell (the split of a frame into
what the store holds and the rest is the model's: log 12), with V and E of the running window (R81); a DISABLED feed's
frame changes nothing but the store. -/
def Obligations.FeedFrameIsClassified : Prop :=
  ∀ (s : State) (f : Feed) (bytes : List Byte),
    let frame := (rd s.ports f).receiveStore ++ bytes
    let size := (byteAt frame 7).toNat
    let m := rd s.monitors f
    let k := m.counters
    let t := s.setPort f { receiveStore := [], offered := (rd s.ports f).offered }
    let errored := frame.length < 12 ∨ 252 < frame.length ∨ frame.length ≠ 12 + size ∨
      word32At frame (8 + size) ≠ checkWord (frame.take (8 + size))
    let misdirected := byteAt frame 0 ≠ 0x01 ∨ word16At frame 2 = 0xFFFF
    let window := m.window.map fun w => { w with valid := satAdd16 w.valid 1 }
    let valid := { m with window := window, counters := { k with valid := satInc k.valid } }
    (m.state = .disabled → exec (.feedFrameReceived f bytes) s = .next t) ∧
    (m.state ≠ .disabled → errored → exec (.feedFrameReceived f bytes) s = .next (t.setMonitor f { m with
      window := m.window.map fun w => { w with errored := satAdd16 w.errored 1 }
      counters := { k with errored := satInc k.errored } })) ∧
    (m.state ≠ .disabled → ¬errored → misdirected → exec (.feedFrameReceived f bytes) s = .next (t.setMonitor f { valid with
      counters := { k with valid := satInc k.valid, misdirected := satInc k.misdirected } })) ∧
    (m.state ≠ .disabled → ¬errored → ¬misdirected → m.usable = false →
      exec (.feedFrameReceived f bytes) s = .next (t.setMonitor f { valid with
        counters := { k with valid := satInc k.valid, unusableDrops := satInc k.unusableDrops } })) ∧
    (m.state ≠ .disabled → ¬errored → ¬misdirected → m.usable = true →
      exec (.feedFrameReceived f bytes) s = .next { s with
        monitors := wr s.monitors f valid
        ports := wr s.ports f { receiveStore := [], offered := (rd s.ports f).offered ++ [
          { feed := f, tag := word16At frame 2, seq := word16At frame 4, origin := byteAt frame 6,
            payload := (frame.drop 8).take size }] } })

/-- FEED_LINK_DOWN: the feed goes DOWN without a verdict, its runs at 0 and its pending settings adopted; a DISABLED feed
changes only its link field; the frame in the receive store is abandoned uncounted; a usable feed becomes unusable with
cause link down. -/
def Obligations.LinkDownTakesFeedDown : Prop :=
  ∀ (s : State) (f : Feed), (rd s.monitors f).consistent →
    let m := rd s.monitors f
    let t := s.setPort f { receiveStore := [], offered := (rd s.ports f).offered }
    let down := { m with
      link := false, state := .down, window := none, acceptedRun := 0, rejectTally := 0, usable := false
      current := m.pending.getD m.current, pending := none }
    (m.state = .disabled → exec (.feedLinkDown f) s = .next (t.setMonitor f { m with link := false })) ∧
    (m.state ≠ .disabled → m.usable = false → exec (.feedLinkDown f) s = .next (t.setMonitor f down)) ∧
    (m.state ≠ .disabled → m.usable = true → exec (.feedLinkDown f) s = .next { t.setMonitor f down with
      feedEvents := wr s.feedEvents f (rd s.feedEvents f + 1)
      feedLatches := wr s.feedLatches f true
      notices := s.notices.raising [⟨.feedUnusable, .feed f, 0xFFFF, 0x0100⟩] })

/-- FEED_LINK_UP: a DOWN feed enters PROBATION with its first window and its runs at 0, and is usable at once only with
advisory set; a DISABLED feed changes only its link field. -/
def Obligations.LinkUpStartsProbation : Prop :=
  ∀ (s : State) (f : Feed), (rd s.monitors f).consistent →
    let m := rd s.monitors f
    let up := { m with
      link := true, state := .probation, acceptedRun := 0, rejectTally := 0, usable := m.current.advisory
      window := some { expiry := s.elapsed + m.current.windowLength, valid := 0, errored := 0 } }
    (m.state = .disabled → exec (.feedLinkUp f) s = .next (s.setMonitor f { m with link := true })) ∧
    (m.state = .down → m.current.advisory = false → exec (.feedLinkUp f) s = .next (s.setMonitor f up)) ∧
    (m.state = .down → m.current.advisory = true → exec (.feedLinkUp f) s = .next { s.setMonitor f up with
      feedEvents := wr s.feedEvents f (rd s.feedEvents f + 1)
      notices := s.notices.raising [⟨.feedUsable, .feed f, 0xFFFF, 0⟩] })

/-- WINDOW_EXPIRY: the verdict on the window's V and E under the settings current so far, in the order REJECTED, ACCEPTED,
NEUTRAL, and the runs and window counters each verdict leaves. Pending settings are adopted at the start of the next
window, and a run is clamped to one below the new Q or D where that differs from the old. -/
def Obligations.WindowVerdictUpdatesRuns : Prop :=
  ∀ (s : State) (f : Feed) (w : Window), (rd s.monitors f).window = some w → w.expiry ≤ s.elapsed →
    let m := rd s.monitors f
    let new := m.pending.getD m.current
    let clampQ (run : Nat) := if new.qualify ≠ m.current.qualify then min run (new.qualify - 1) else run
    let clampD (run : Nat) := if new.disqualify ≠ m.current.disqualify then min run (new.disqualify - 1) else run
    let rejected := m.current.rejectMargin < w.errored.toNat ∨ w.valid.toNat < m.current.minValid
    let accepted := ¬rejected ∧ w.errored.toNat ≤ m.current.acceptMargin
    let neutral := ¬rejected ∧ ¬accepted
    ∃ t m', exec (.windowExpiry f) s = .next t ∧ m' = rd t.monitors f ∧ m'.current = new ∧ m'.pending = none ∧
      (rejected → m'.acceptedRun = clampQ 0 ∧ m'.rejectTally = clampD (min (m.rejectTally + 1) 15) ∧
        m'.counters.windowsRejected = satInc m.counters.windowsRejected ∧
        m'.counters.windowsAccepted = m.counters.windowsAccepted ∧
        m'.counters.windowsNeutral = m.counters.windowsNeutral) ∧
      (accepted → m'.acceptedRun = clampQ (min (m.acceptedRun + 1) 15) ∧ m'.rejectTally = clampD 0 ∧
        m'.counters.windowsAccepted = satInc m.counters.windowsAccepted ∧
        m'.counters.windowsRejected = m.counters.windowsRejected ∧
        m'.counters.windowsNeutral = m.counters.windowsNeutral) ∧
      (neutral → m'.acceptedRun = clampQ 0 ∧ m'.rejectTally = clampD m.rejectTally ∧
        m'.counters.windowsNeutral = satInc m.counters.windowsNeutral ∧
        m'.counters.windowsAccepted = m.counters.windowsAccepted ∧
        m'.counters.windowsRejected = m.counters.windowsRejected)

/-- WINDOW_EXPIRY: qualification after Q ACCEPTED windows, quarantine after D REJECTED ones, the next window at the expiry
of this one, with the length that any pending settings adopted there give it, and the effects of a change of usability;
everything but the monitor is left alone otherwise. -/
def Obligations.VerdictMovesFeedState : Prop :=
  ∀ (s : State) (f : Feed) (w : Window), (rd s.monitors f).consistent → (rd s.monitors f).window = some w →
    w.expiry ≤ s.elapsed →
    let m := rd s.monitors f
    let new := m.pending.getD m.current
    let rejected := m.current.rejectMargin < w.errored.toNat ∨ w.valid.toNat < m.current.minValid
    let accepted := ¬rejected ∧ w.errored.toNat ≤ m.current.acceptMargin
    let qualifies := (m.state = .probation ∨ m.state = .quarantine) ∧ accepted ∧ m.current.qualify ≤ m.acceptedRun + 1
    let disqualified := m.state = .inService ∧ rejected ∧ m.current.disqualify ≤ m.rejectTally + 1
    ∃ t m', exec (.windowExpiry f) s = .next t ∧ m' = rd t.monitors f ∧
      m'.link = m.link ∧ m'.current = new ∧ m'.pending = none ∧
      m'.window = some { expiry := w.expiry + new.windowLength, valid := 0, errored := 0 } ∧
      (qualifies → m'.state = .inService ∧ m'.usable = true ∧ m'.counters.quarantines = m.counters.quarantines ∧
        (m.usable = false → t = { s.setMonitor f m' with
          feedEvents := wr s.feedEvents f (rd s.feedEvents f + 1)
          notices := s.notices.raising [⟨.feedUsable, .feed f, 0xFFFF, 0⟩] })) ∧
      (disqualified → m'.state = .quarantine ∧ m'.usable = m.current.advisory ∧
        m'.counters.quarantines = satInc m.counters.quarantines ∧
        (m.current.advisory = false → t = { s.setMonitor f m' with
          feedEvents := wr s.feedEvents f (rd s.feedEvents f + 1)
          feedLatches := wr s.feedLatches f true
          notices := s.notices.raising [⟨.feedUnusable, .feed f, 0xFFFF, 0x0200⟩] })) ∧
      (¬qualifies → ¬disqualified → m'.state = m.state ∧ m'.usable = m.usable ∧
        m'.counters.quarantines = m.counters.quarantines) ∧
      (m'.usable = m.usable → t = s.setMonitor f m')

/-! ### Arrivals -/

/-- COPY_TAKE: a copy with no mapped tag, of an unusable feed, of a feed that the entry does not list, or of a foreign
origin is counted and discarded; FOREIGN_COPY is raised for a foreign origin, and nothing else in the part changes. -/
def Obligations.RefusedCopiesAreOnlyCounted : Prop :=
  ∀ (s : State) (f : Feed) (copy : Copy) (rest : List Copy),
    (rd s.ports f).offered = copy :: rest → copy.feed = f →
    let t := s.taken f rest
    let m := rd s.monitors f
    (s.lookup copy.tag = none → exec (.copyTake f) s = .next (t.setMonitor f { m with
      counters := { m.counters with unknownTag := satInc m.counters.unknownTag } })) ∧
    ∀ (i : Slot) (e : Entry), s.lookup copy.tag = some i → s.enabledEntry i = some e →
      let r := rd s.runtimes i
      (m.usable = false → exec (.copyTake f) s = .next (t.setMonitor f { m with
        counters := { m.counters with unusableDrops := satInc m.counters.unusableDrops } })) ∧
      (m.usable = true → f ∉ e.feeds → exec (.copyTake f) s = .next (t.setRuntime i { r with
        counters := { r.counters with strayCopies := satInc r.counters.strayCopies } })) ∧
      ∀ o : Byte, m.usable = true → f ∈ e.feeds → e.origin = some o → o ≠ copy.origin →
        exec (.copyTake f) s = .next { t.setRuntime i { r with
            counters := { r.counters with foreignCopies := satInc r.counters.foreignCopies } } with
          notices := s.notices.raising [streamNotice i e .foreignCopy (BitVec.ofNat 8 f.val ++ copy.origin)] }

/-- COPY_TAKE in SEEKING: the first admitted copy, deliverable or from a standby feed and then a rescue that is reported
to the selector, is released with the mark first after seek on a granted claim; NES follows it, the stream is TRACKING,
and the due timer is armed. With no buffer free it is a no-buffer drop and the stream stays in SEEKING. While the
delivery link is down the released frame is discarded as undeliverable and its buffer freed. (A hold list is empty in
SEEKING; the order of POOL_RECOVERED and ACTIVE_SWITCH is the model's, log 6.) -/
def Obligations.SeekingFollowsTheFirstCopy : Prop :=
  ∀ (s : State) (f : Feed) (copy : Copy) (rest : List Copy) (i : Slot) (e : Entry),
    s.admits f copy rest i e → (rd s.runtimes i).mergeState = .seeking →
    let r := rd s.runtimes i
    let r' := s.releasing e r copy
    (deliverableFrom e r f ∨ r.hold = [] → 1 ≤ s.pool.free → exec (.copyTake f) s = .next { s.taken f rest with
      runtimes := wr s.runtimes i { r' with
        mergeState := .tracking, candidate := none, due := some (s.elapsed + (e.period + e.slack)) }
      pool := s.pool.claimed.freed (s.undelivered 1)
      dataQueue := s.dataQueue ++ s.handed [copyFrame copy (rescues e r f) r.gapMark false true]
      notices := s.notices.raising
        (s.pool.claimed.freedNotice (s.undelivered 1) ++ switchNotice i e r.active r'.active) }) ∧
    (s.pool.free = 0 → exec (.copyTake f) s = .next (s.dropping f rest i))

/-- COPY_TAKE of the next expected sequence, deliverable: a held fallback for it is discarded and its buffer freed; the
copy is released to the data queue, and after it, in order and from their own buffers, the held copies that follow on
from it and are deliverable, up to the first that is not. NES passes what was released, the due timer is re-armed, the
candidate and the rescue run are cleared, and a BRIDGING stream recovers. While the delivery link is down what is
released is discarded, its buffers freed, and counted as undeliverable. (POOL_RECOVERED before STREAM_RECOVERED: the
model's order, log 6.) -/
def Obligations.NextCopyIsReleased : Prop :=
  ∀ (s : State) (f : Feed) (copy : Copy) (rest : List Copy) (i : Slot) (e : Entry) (fallback held run left : List Copy),
    s.admits f copy rest i e → (rd s.runtimes i).followed → (rd s.runtimes i).nes = some copy.seq →
    deliverableFrom e (rd s.runtimes i) f → (rd s.runtimes i).hold = fallback ++ held →
    (fallback = [] ∧ ∀ h ∈ held.head?, h.seq ≠ copy.seq) ∨ (∃ h, fallback = [h] ∧ h.seq = copy.seq) →
    releaseSplit (deliverableFrom e (rd s.runtimes i)) (copy.seq + 1) held run left → 1 ≤ s.pool.free + fallback.length →
    let r := rd s.runtimes i
    let p := (s.pool.freed fallback.length).claimed
    let undelivered := s.undelivered (1 + run.length)
    exec (.copyTake f) s = .next { s.taken f rest with
      runtimes := wr s.runtimes i { r with
        mergeState := .tracking
        nes := some (copy.seq + 1 + BitVec.ofNat 16 run.length)
        hold := left
        candidate := none
        due := some (s.elapsed + (e.period + e.slack))
        placeholderRun := 0
        gapMark := false
        selector := r.selector.map fun q => { q with rescueRun := none }
        counters := { r.counters with
          delivered := satAdd r.counters.delivered (1 + run.length)
          undeliverable := satAdd r.counters.undeliverable undelivered } }
      pool := p.freed undelivered
      dataQueue := s.dataQueue ++ s.handed (copyFrame copy false r.gapMark false false ::
        run.map fun h => copyFrame h false false false false)
      notices := s.notices.raising
        (s.pool.freedNotice fallback.length ++ p.freedNotice undelivered ++ recoveredNotice i e r) }

/-- COPY_TAKE of an early copy within the window whose sequence is not held, with room under the hold limit: held in its
place on a claim that needs more than 16 free buffers. A standby copy of the next expected sequence: held at the head as
the fallback on the same claim, or, when a fallback is held already, a late duplicate that clears the candidate. -/
def Obligations.EarlyAndStandbyCopiesAreHeld : Prop :=
  ∀ (s : State) (f : Feed) (copy : Copy) (rest : List Copy) (i : Slot) (e : Entry) (n : Seq),
    s.admits f copy rest i e → (rd s.runtimes i).followed → (rd s.runtimes i).nes = some n →
    let r := rd s.runtimes i
    let room := r.hold.length < e.holdLimit ∧ 16 < s.pool.free
    (room → 1 ≤ (copy.seq - n).toNat → (copy.seq - n).toNat ≤ e.window → e.window ≤ 1023 →
      (∀ h ∈ r.hold, h.seq ≠ copy.seq) → exec (.copyTake f) s = .next { s.taken f rest with
        runtimes := wr s.runtimes i { r with hold := insertHold n copy r.hold, candidate := none }
        pool := { s.pool with free := s.pool.free - 1 } }) ∧
    (room → copy.seq = n → ¬deliverableFrom e r f → (∀ h ∈ r.hold.head?, h.seq ≠ n) →
      exec (.copyTake f) s = .next { s.taken f rest with
        runtimes := wr s.runtimes i { r with hold := copy :: r.hold, candidate := none }
        pool := { s.pool with free := s.pool.free - 1 } }) ∧
    (copy.seq = n → ¬deliverableFrom e r f → (∃ h ∈ r.hold.head?, h.seq = n) →
      exec (.copyTake f) s = .next ((s.taken f rest).setRuntime i { r with
        candidate := none
        counters := { r.counters with lateDuplicates := satInc r.counters.lateDuplicates } }))

/-- COPY_TAKE of a sequence already held: the active feed's copy replaces a standby feed's in its place, with no claim
and no counter; any other is a late duplicate; the resync candidate is cleared in both cases. -/
def Obligations.HeldCopyIsReplacedOrDuplicated : Prop :=
  ∀ (s : State) (f : Feed) (copy h : Copy) (rest : List Copy) (i : Slot) (e : Entry) (n : Seq),
    s.admits f copy rest i e → (rd s.runtimes i).followed → (rd s.runtimes i).nes = some n →
    1 ≤ (copy.seq - n).toNat → (copy.seq - n).toNat ≤ e.window → e.window ≤ 1023 →
    (rd s.runtimes i).hold.find? (fun g => g.seq == copy.seq) = some h →
    let r := rd s.runtimes i
    let better := e.mode ≠ .first ∧ r.active = some f ∧ r.active ≠ some h.feed
    (better → exec (.copyTake f) s = .next ((s.taken f rest).setRuntime i { r with
      hold := r.hold.map fun g => if g.seq = copy.seq then copy else g
      candidate := none })) ∧
    (¬better → exec (.copyTake f) s = .next ((s.taken f rest).setRuntime i { r with
      candidate := none
      counters := { r.counters with lateDuplicates := satInc r.counters.lateDuplicates } }))

/-- COPY_TAKE of a copy behind NES in TRACKING or BRIDGING: counted as a late duplicate, and nothing else changes. -/
def Obligations.BehindCopyIsLateDuplicate : Prop :=
  ∀ (s : State) (f : Feed) (copy : Copy) (rest : List Copy) (i : Slot) (e : Entry) (n : Seq),
    s.admits f copy rest i e → (rd s.runtimes i).followed → (rd s.runtimes i).nes = some n →
    32768 ≤ (copy.seq - n).toNat →
    let r := rd s.runtimes i
    exec (.copyTake f) s = .next ((s.taken f rest).setRuntime i { r with
      counters := { r.counters with lateDuplicates := satInc r.counters.lateDuplicates } })

/-- COPY_TAKE of an out-of-window copy in TRACKING or BRIDGING, or of a copy behind NES in STARVED: counted and applied
to the resync candidate by the table of R39; below the threshold nothing else changes. At the threshold the stream
resynchronises: the hold list is flushed, the copy is released with the mark after resync, as a rescue when it is a
standby feed's, NES follows it, and STREAM_RESYNC is raised, then STREAM_RECOVERED out of BRIDGING and STARVED; while the
delivery link is down the released frame is discarded as undeliverable and its buffer freed. With no buffer free or held,
the copy is a no-buffer drop too, and the record and its candidate are kept. (The flag is tested with the claim taken:
log 10; POOL_RECOVERED before the stream's notices: the model's order, log 6.) -/
def Obligations.OutOfWindowCopiesLeadToResync : Prop :=
  ∀ (s : State) (f : Feed) (copy : Copy) (rest : List Copy) (i : Slot) (e : Entry) (n : Seq) (k : Candidate),
    s.admits f copy rest i e → (rd s.runtimes i).nes = some n →
    ((rd s.runtimes i).followed ∧ e.window < (copy.seq - n).toNat ∧ (copy.seq - n).toNat < 32768) ∨
      ((rd s.runtimes i).mergeState = .starved ∧ 32768 ≤ (copy.seq - n).toNat) →
    candidateRow e.window (rd s.runtimes i).candidate copy.seq k →
    let r := rd s.runtimes i
    let free := s.pool.free + r.hold.length - 1
    let recovers := r.hold ≠ [] ∧ s.pool.pressure = true ∧ 32 ≤ free
    let p : Pool := { free := free, pressure := if recovers then false else s.pool.pressure }
    let r' := s.releasing e r copy
    (k.count ≠ e.resyncThreshold → exec (.copyTake f) s = .next ((s.taken f rest).setRuntime i { r with
      candidate := some k
      counters := { r.counters with outOfWindow := satInc r.counters.outOfWindow } })) ∧
    (k.count = e.resyncThreshold → 1 ≤ s.pool.free + r.hold.length →
      exec (.copyTake f) s = .next { s.taken f rest with
        runtimes := wr s.runtimes i { r' with
          mergeState := .tracking
          hold := []
          candidate := none
          due := some (s.elapsed + (e.period + e.slack))
          counters := { r'.counters with
            outOfWindow := satInc r.counters.outOfWindow
            resyncs := satInc r.counters.resyncs } }
        pool := p.freed (s.undelivered 1)
        dataQueue := s.dataQueue ++ s.handed [copyFrame copy (rescues e r f) false true false]
        streamLatches := wr s.streamLatches i true
        notices := s.notices.raising (poolRecovered recovers ++ p.freedNotice (s.undelivered 1) ++
          switchNotice i e r.active r'.active ++ [streamNotice i e .streamResync copy.seq] ++
          if r.mergeState = .tracking then [] else [streamNotice i e .streamRecovered 0]) }) ∧
    (k.count = e.resyncThreshold → s.pool.free = 0 → r.hold = [] →
      exec (.copyTake f) s = .next { (s.taken f rest).setRuntime i { r with
          counters := { r.counters with
            outOfWindow := satInc r.counters.outOfWindow
            noBufferDrops := satInc r.counters.noBufferDrops } } with
        pool := { s.pool with pressure := true }
        notices := s.notices.raising (exhaustedNotice s.pool) })

/-- COPY_TAKE with the pool short: a release claim needs one free buffer and a hold claim, of an early copy or of a
fallback, more than 16; a refused copy is a no-buffer drop that leaves the record as it was, and the first refusal sets
the pressure flag with POOL_EXHAUSTED. -/
def Obligations.RefusedClaimDropsTheCopy : Prop :=
  ∀ (s : State) (f : Feed) (copy : Copy) (rest : List Copy) (i : Slot) (e : Entry) (n : Seq),
    s.admits f copy rest i e → (rd s.runtimes i).followed → (rd s.runtimes i).nes = some n →
    let r := rd s.runtimes i
    (copy.seq = n → deliverableFrom e r f → (∀ h ∈ r.hold.head?, h.seq ≠ n) → s.pool.free = 0 →
      exec (.copyTake f) s = .next (s.dropping f rest i)) ∧
    (copy.seq = n → ¬deliverableFrom e r f → (∀ h ∈ r.hold.head?, h.seq ≠ n) → r.hold.length < e.holdLimit →
      s.pool.free ≤ 16 → exec (.copyTake f) s = .next (s.dropping f rest i)) ∧
    (1 ≤ (copy.seq - n).toNat → (copy.seq - n).toNat ≤ e.window → e.window ≤ 1023 → (∀ h ∈ r.hold, h.seq ≠ copy.seq) →
      r.hold.length < e.holdLimit → s.pool.free ≤ 16 → exec (.copyTake f) s = .next (s.dropping f rest i))

/-- COPY_TAKE of an early copy, or of a standby copy of NES, with the hold list full, down to hold limit 0: pressure
release. The sequences before the nearer of the copy and the head are declared lost as one gap event; the heads that
follow on from there are released whatever their feed, a standby feed's as a rescue that is reported; and the copy is
reconsidered: released when it is next and deliverable, or next with the list still full, and after it the ordinary run;
and else held on the hold claim. A refused claim drops the copy and nothing before it. The event closes as an arrival
when it has released a copy. While the delivery link is down what is released is discarded as undeliverable and its
buffer freed. (The pool's notices stand where they fall among the stream's: the model's order, log 6.) -/
def Obligations.PressureReleaseMakesRoom : Prop :=
  ∀ (s : State) (f : Feed) (copy : Copy) (rest : List Copy) (i : Slot) (e : Entry) (n : Seq) (run left : List Copy),
    s.admits f copy rest i e → (rd s.runtimes i).followed → (rd s.runtimes i).nes = some n →
    e.holdLimit ≤ (rd s.runtimes i).hold.length → (∀ h ∈ (rd s.runtimes i).hold, h.seq ≠ copy.seq) →
    1 ≤ (copy.seq - n).toNat ∨ ¬deliverableFrom e (rd s.runtimes i) f → (copy.seq - n).toNat ≤ e.window →
    e.window ≤ 1023 →
    let r := rd s.runtimes i
    let m := match r.hold with
      | h :: _ => if (h.seq - n).toNat < (copy.seq - n).toNat then h.seq else copy.seq
      | [] => copy.seq
    releaseSplit (fun _ => True) m r.hold run left →
    let lost := r.losing n m
    let passed := { s.releasingAll e lost run with hold := left }
    let next := m + BitVec.ofNat 16 run.length
    let p := s.pool.freed (s.undelivered run.length)
    let goes := copy.seq = next ∧ (deliverableFrom e passed f ∨ e.holdLimit ≤ left.length)
    let close (r : Runtime) := if run = [] then r else r.closed (s.elapsed + (e.period + e.slack))
    let recovered := if run = [] then [] else recoveredNotice i e r
    let raised := gapNotices i e n m ++ s.releaseNotices i e s.pool lost run
    let t := { s.taken f rest with
      dataQueue := s.dataQueue ++ s.releaseFrames e lost run
      streamLatches := s.latchesLosing i n m }
    (∀ more kept, goes → 1 ≤ p.free →
      releaseSplit (deliverableFrom e (s.releasing e passed copy)) (copy.seq + 1) left more kept →
      exec (.copyTake f) s = .next { t with
        runtimes := wr s.runtimes i (({ s.releasingAll e passed (copy :: more) with hold := kept } : Runtime).closed
          (s.elapsed + (e.period + e.slack)))
        pool := p.claimed.freed (s.undelivered (1 + more.length))
        dataQueue := t.dataQueue ++ s.releaseFrames e passed (copy :: more)
        notices := s.notices.raising
          (raised ++ s.releaseNotices i e p.claimed passed (copy :: more) ++ recoveredNotice i e r) }) ∧
    (¬goes → 16 < p.free → exec (.copyTake f) s = .next { t with
      runtimes := wr s.runtimes i (close { passed with hold := insertHold next copy left, candidate := none })
      pool := p.claimed
      notices := s.notices.raising (raised ++ recovered) }) ∧
    ((goes ∧ p.free = 0) ∨ (¬goes ∧ p.free ≤ 16) → exec (.copyTake f) s = .next { t with
      runtimes := wr s.runtimes i (close { passed with
        counters := { passed.counters with noBufferDrops := satInc passed.counters.noBufferDrops } })
      pool := { p with pressure := true }
      notices := s.notices.raising (raised ++ exhaustedNotice p ++ recovered) })

/-- COPY_TAKE in STARVED of a copy at or ahead of NES: on a granted claim the sequences before it are declared lost as one
gap event, it is released, as a rescue when it is a standby feed's, and the stream is TRACKING again with STREAM_RECOVERED
after the STREAM_GAP. With no buffer free it is a no-buffer drop and the stream stays STARVED. While the delivery link is
down the released frame is discarded as undeliverable and its buffer freed. (A hold list is empty in STARVED; the order of
POOL_RECOVERED among the stream's notices is the model's, log 6.) -/
def Obligations.StarvedStreamRecovers : Prop :=
  ∀ (s : State) (f : Feed) (copy : Copy) (rest : List Copy) (i : Slot) (e : Entry) (n : Seq),
    s.admits f copy rest i e → (rd s.runtimes i).mergeState = .starved → (rd s.runtimes i).nes = some n →
    (copy.seq - n).toNat < 32768 →
    let r := rd s.runtimes i
    let lost := r.losing n copy.seq
    let r' := s.releasing e lost copy
    (deliverableFrom e r f ∨ r.hold = [] → 1 ≤ s.pool.free → exec (.copyTake f) s = .next { s.taken f rest with
      runtimes := wr s.runtimes i { r' with
        mergeState := .tracking, candidate := none, due := some (s.elapsed + (e.period + e.slack)) }
      pool := s.pool.claimed.freed (s.undelivered 1)
      dataQueue := s.dataQueue ++ s.handed [copyFrame copy (rescues e r f) lost.gapMark false false]
      streamLatches := s.latchesLosing i n copy.seq
      notices := s.notices.raising (gapNotices i e n copy.seq ++ s.pool.claimed.freedNotice (s.undelivered 1) ++
        switchNotice i e r.active r'.active ++ [streamNotice i e .streamRecovered 0]) }) ∧
    (s.pool.free = 0 → exec (.copyTake f) s = .next (s.dropping f rest i))

/-! ### Deadlines -/

/-- DUE_EXPIRY with an empty hold list: a placeholder for NES while the run is below the limit, or its suppression as a
gap event of one when no buffer is free, each entering BRIDGING from TRACKING; and STARVED at the limit. While the
delivery link is down an emitted placeholder is discarded as undeliverable and its buffer freed, and the stream moves on
as though it had been sent. (The pool's notices before the stream's: the model's order, log 6.) -/
def Obligations.DeadlineWithNothingHeld : Prop :=
  ∀ (s : State) (i : Slot) (e : Entry) (x : Moment) (n : Seq),
    s.enabledEntry i = some e → (rd s.runtimes i).followed → (rd s.runtimes i).due = some x →
    (rd s.runtimes i).nes = some n → (rd s.runtimes i).hold = [] → x ≤ s.elapsed →
    let r := rd s.runtimes i
    let entering := r.mergeState = .tracking
    let bridging := if entering then [streamNotice i e .streamBridging 0] else []
    let r' := { r with
      mergeState := .bridging
      nes := some (n + 1)
      due := some (x + e.period)
      placeholderRun := r.placeholderRun + 1 }
    (r.placeholderRun < e.placeholderLimit → 1 ≤ s.pool.free →
      exec (.dueExpiry i) s = .next { s with
        runtimes := wr s.runtimes i { r' with
          gapMark := false
          counters := { r.counters with
            placeholders := satInc r.counters.placeholders
            undeliverable := satAdd r.counters.undeliverable (s.undelivered 1) } }
        pool := s.pool.claimed.freed (s.undelivered 1)
        dataQueue := s.dataQueue ++ s.handed [
          { kind := .sample, marks := if r.gapMark then 0x18 else 0x08, tag := e.tag, seq := n, origin := e.origin.getD 0,
            payload := [] }]
        streamLatches := if entering then wr s.streamLatches i true else s.streamLatches
        notices := s.notices.raising (s.pool.claimed.freedNotice (s.undelivered 1) ++ bridging) }) ∧
    (r.placeholderRun < e.placeholderLimit → s.pool.free = 0 →
      exec (.dueExpiry i) s = .next { s with
        runtimes := wr s.runtimes i { r' with
          gapMark := true
          counters := { r.counters with
            gapEvents := satInc r.counters.gapEvents
            lostSequences := satInc r.counters.lostSequences
            suppressed := satInc r.counters.suppressed } }
        pool := { s.pool with pressure := true }
        streamLatches := wr s.streamLatches i true
        notices := s.notices.raising (exhaustedNotice s.pool ++ [streamNotice i e .streamGap 1] ++ bridging) }) ∧
    (e.placeholderLimit ≤ r.placeholderRun → exec (.dueExpiry i) s = .next { s with
        runtimes := wr s.runtimes i { r with mergeState := .starved, due := none }
        streamLatches := wr s.streamLatches i true
        notices := s.notices.raising [streamNotice i e .streamStarved 0] })

/-- DUE_EXPIRY with copies held: the gap before the head is declared, where there is one, and the head and those that
follow on from it are released whatever their feed; a standby feed's is a rescue, which counts toward the rescue run
while its feed is usable and at the threshold makes the rescue switch of R72. The stream is TRACKING, its due timer
re-armed from the expiry, and the resync candidate is left alone. While the delivery link is down what is released is
discarded as undeliverable and its buffer freed. (At an expiry taken late a hold-off is counted from the taking: log 15;
the order of the pool's notices among the stream's is the model's: log 6.) -/
def Obligations.DeadlineReleasesTheHeldCopies : Prop :=
  ∀ (s : State) (i : Slot) (e : Entry) (x : Moment) (n : Seq) (h : Copy) (held run left : List Copy),
    s.enabledEntry i = some e → (rd s.runtimes i).followed → (rd s.runtimes i).due = some x →
    (rd s.runtimes i).nes = some n → (rd s.runtimes i).hold = h :: held → x ≤ s.elapsed →
    releaseSplit (fun _ => True) h.seq (h :: held) run left →
    let r := rd s.runtimes i
    let lost := r.losing n h.seq
    exec (.dueExpiry i) s = .next { s with
      runtimes := wr s.runtimes i { s.releasingAll e lost run with
        mergeState := .tracking, hold := left, due := some (x + (e.period + e.slack)) }
      pool := s.pool.freed (s.undelivered run.length)
      dataQueue := s.dataQueue ++ s.releaseFrames e lost run
      streamLatches := s.latchesLosing i n h.seq
      notices := s.notices.raising
        (gapNotices i e n h.seq ++ s.releaseNotices i e s.pool lost run ++ recoveredNotice i e r) }

/-! ### The selector -/

/-- FEED_EVENT: one feed event is taken, and exactly the slots whose live entry is ENABLED, PREFERRED and lists the feed
are marked for review; nothing else changes. -/
def Obligations.FeedEventMarksListingStreams : Prop :=
  ∀ (s : State) (f : Feed), 1 ≤ rd s.feedEvents f →
    ∃ t, exec (.feedEvent f) s = .next t ∧
      t = { s with feedEvents := wr s.feedEvents f (rd s.feedEvents f - 1), runtimes := t.runtimes } ∧
      ∀ i : Slot,
        ((∃ e, s.enabledEntry i = some e ∧ e.mode ≠ .first ∧ f ∈ e.feeds) →
          rd t.runtimes i = { rd s.runtimes i with
            selector := (rd s.runtimes i).selector.map fun q => { q with reviewPending := true } }) ∧
        ((∀ e, s.enabledEntry i = some e → e.mode = .first ∨ f ∉ e.feeds) → rd t.runtimes i = rd s.runtimes i)

/-- SELECTOR_REVIEW of the lowest marked slot: an immediate switch when the active feed is absent or not usable, and else
the table of R70. A switch raises ACTIVE_SWITCH and clears the rescue run, and the hold list is then re-examined: the
copies of the new active feed that follow on from NES are released, which closes as an arrival does, and while the
delivery link is down are discarded as undeliverable; nothing else in the part changes. (An active feed that the entry
does not list counts as not usable: log 20; the order of POOL_RECOVERED among the stream's notices is the model's: log
6.) -/
def Obligations.ReviewSettlesTheSelector : Prop :=
  ∀ (s : State) (i : Slot) (e : Entry) (p : SelectionPart) (q : Selector),
    (rd s.runtimes i).selector = some q → q.reviewPending = true →
    (∀ j : Slot, j < i → (rd s.runtimes j).reviewPending = false) → s.enabledEntry i = some e → e.mode = .preferred p →
    let r := rd s.runtimes i
    let best := s.bestUsable e
    let q0 := { q with reviewPending := false }
    let kept (q' : Selector) := s.setRuntime i { r with selector := some q' }
    let moved (st : SelectorState) := { q0 with state := st, active := best, holdOff := none, rescueRun := none }
    let settled := ∃ a, q.active = some a ∧ a ∈ e.feeds ∧ (rd s.monitors a).usable = true
    (∀ run left, reexamined r best run left →
      let switching (st : SelectorState) := s.switching i e { r with selector := some (moved st) } q.active run left
      (¬settled → best.isSome = true → best ≠ q.active → exec .selectorReview s = .next (switching .primary)) ∧
      (¬settled → best = none → q.active ≠ none → exec .selectorReview s = .next (switching .noFeed)) ∧
      (settled → best ≠ q.active → p.revertive = true → q.holdOff = none → p.holdOff = 0 →
        exec .selectorReview s = .next (switching .primary))) ∧
    (best = none → q.active = none → exec .selectorReview s = .next (kept
      { q0 with state := .noFeed, holdOff := none })) ∧
    (settled → best = q.active → exec .selectorReview s = .next (kept
      { q0 with state := .primary, holdOff := none })) ∧
    (settled → best ≠ q.active → p.revertive = false → exec .selectorReview s = .next (kept
      { q0 with state := .backup, holdOff := none })) ∧
    (settled → best ≠ q.active → p.revertive = true → q.holdOff.isSome = true →
      exec .selectorReview s = .next (kept { q0 with state := .revertWait })) ∧
    (settled → best ≠ q.active → p.revertive = true → q.holdOff = none → 1 ≤ p.holdOff →
      exec .selectorReview s = .next (kept { q0 with
        state := .revertWait
        holdOff := some (s.elapsed + (p.holdOff * 1000)) }))

/-- HOLD_OFF_EXPIRY: the timer goes, review pending is cleared, and the stream moves to its best usable feed, or to
PRIMARY without a switch when that is its active feed, or to no feed when none is usable; after a switch the hold list is
re-examined, what it releases being discarded as undeliverable while the delivery link is down. (An active feed that the
entry does not list counts as not usable: log 20; the order of POOL_RECOVERED among the stream's notices is the model's:
log 6.) -/
def Obligations.HoldOffExpiryReturnsToBestFeed : Prop :=
  ∀ (s : State) (i : Slot) (e : Entry) (p : SelectionPart) (q : Selector) (x : Moment),
    (rd s.runtimes i).selector = some q → q.holdOff = some x → x ≤ s.elapsed →
    s.enabledEntry i = some e → e.mode = .preferred p →
    let r := rd s.runtimes i
    let best := s.bestUsable e
    let st : SelectorState := if best = none then .noFeed else .primary
    let moved : Selector := { state := st, active := best, holdOff := none, rescueRun := none, reviewPending := false }
    (best = q.active → exec (.holdOffExpiry i) s = .next (s.setRuntime i { r with
      selector := some { q with state := st, holdOff := none, reviewPending := false } })) ∧
    ∀ run left, reexamined r best run left → best ≠ q.active →
      exec (.holdOffExpiry i) s = .next (s.switching i e { r with selector := some moved } q.active run left)

/-! ### The delivery port -/

/-- DELIVERY_FRAME_RECEIVED: the rows of R100 on the frame that the receive store and the rest spell (log 12), and the
inbox's acceptance or overflow of a command (R120). -/
def Obligations.DeliveryFrameIsClassified : Prop :=
  ∀ (s : State) (bytes : List Byte),
    let frame := s.delivery.receiveStore ++ bytes
    let size := (byteAt frame 7).toNat
    let payload := (frame.drop 8).take size
    let d := { s.delivery with receiveStore := [] }
    let errored := frame.length < 12 ∨ 252 < frame.length ∨ frame.length ≠ 12 + size ∨
      word32At frame (8 + size) ≠ checkWord (frame.take (8 + size))
    let foreign := byteAt frame 0 ≠ 0x02 ∨ word16At frame 2 ≠ 0xFFFF ∨ size < 4 ∨ 236 < size
    let command : Command := { token := word16At payload 0, seq := byteAt payload 2, code := byteAt payload 3,
                               args := payload.drop 4 }
    (errored → exec (.deliveryFrameReceived bytes) s = .next { s with
      delivery := { d with errored := satInc s.delivery.errored } }) ∧
    (¬errored → foreign → exec (.deliveryFrameReceived bytes) s = .next { s with
      delivery := { d with foreign := satInc s.delivery.foreign } }) ∧
    (¬errored → ¬foreign → s.inbox.length < 4 → exec (.deliveryFrameReceived bytes) s = .next { s with
      delivery := d
      inbox := s.inbox ++ [command] }) ∧
    (¬errored → ¬foreign → 4 ≤ s.inbox.length → exec (.deliveryFrameReceived bytes) s = .next { s with
      delivery := d
      inboxOverflows := satInc s.inboxOverflows
      notices := s.notices.raising [⟨.inboxOverflow, .part, 0xFFFF, 0⟩] })

/-- DELIVERY_LINK_DOWN: the frame in transmission is abandoned, every queue of the port is emptied with its buffers freed
and the pressure flag tested once, flushed data frames and lost notices are counted, and everything else stays;
DELIVERY_LINK_UP records the link as up and changes nothing else. -/
def Obligations.DeliveryLinkEventsFlushThePort : Prop :=
  ∀ s : State, (s.pool.pressure = true → s.pool.free < 32) →
    let d := s.delivery
    let sending := match d.transmitter with
      | .data _ => 1
      | _ => 0
    let noticeSending := match d.transmitter with
      | .control f => if f.kind = .notice then 1 else 0
      | _ => 0
    let flushed := s.dataQueue.length + sending
    let free := s.pool.free + flushed
    let recovers := s.pool.pressure = true ∧ 32 ≤ free
    let lost := (d.controlQueue.filter fun f => f.kind == .notice).length + noticeSending
    exec .deliveryLinkDown s = .next { s with
      dataQueue := []
      delivery := { d with
        linkUp := false, receiveStore := [], controlQueue := [], replyWait := [], transmitter := .idle, dataRun := 0
        flushed := satAdd d.flushed flushed }
      pool := { free := free, pressure := if recovers then false else s.pool.pressure }
      notices := { s.notices with
        lost := satAdd16 s.notices.lost lost
        raised := s.notices.raised ++ if recovers then [⟨.poolRecovered, .part, 0xFFFF, 0⟩] else [] } } ∧
    exec .deliveryLinkUp s = .next { s with delivery := { d with linkUp := true } }

/-- TRANSMISSION_START: with the link up and the transmitter idle, the arbiter serves the data queue, or the control
queue when the data queue is empty or the data run is 4 with frames in both; otherwise nothing starts. (It serves the
queues as they stand when it is taken, and where nothing can start the command changes nothing: the model's choice, logs
2 and 24.) -/
def Obligations.ArbiterServesByTheTable : Prop :=
  ∀ s : State,
    let d := s.delivery
    let ready := d.linkUp = true ∧ d.transmitter = .idle
    (∀ f rest, ready → s.dataQueue = f :: rest → (d.controlQueue = [] ∨ d.dataRun < 4) →
      exec .transmissionStart s = .next { s with
        dataQueue := rest
        delivery := { d with transmitter := .data f, dataRun := min (d.dataRun + 1) 4 } }) ∧
    (∀ f rest, ready → d.controlQueue = f :: rest → (s.dataQueue = [] ∨ 4 ≤ d.dataRun) →
      exec .transmissionStart s = .next { s with
        delivery := { d with transmitter := .control f, controlQueue := rest, dataRun := 0 } }) ∧
    (¬ready ∨ (s.dataQueue = [] ∧ d.controlQueue = []) → exec .transmissionStart s = .next s)

/-- TRANSMISSION_COMPLETE: the transmitter falls idle; a data frame's buffer is freed and the pressure flag cleared with
POOL_RECOVERED when that leaves 32 free. REPLY_WAIT_ADMIT: the front reply takes a free place of the control queue, and
without a place nothing is admitted. (A command whose event cannot occur changes nothing: log 2.) -/
def Obligations.CompletionFreesAndRepliesAreAdmitted : Prop :=
  ∀ s : State,
    let d := s.delivery
    let recovers := s.pool.pressure = true ∧ 32 ≤ s.pool.free + 1
    (∀ f, d.transmitter = .data f → exec .transmissionComplete s = .next { s with
      delivery := { d with transmitter := .idle }
      pool := { free := s.pool.free + 1, pressure := if recovers then false else s.pool.pressure }
      notices := s.notices.raising (if recovers then [⟨.poolRecovered, .part, 0xFFFF, 0⟩] else []) }) ∧
    (∀ f, d.transmitter = .control f → exec .transmissionComplete s = .next { s with
      delivery := { d with transmitter := .idle } }) ∧
    (∀ r rest, d.replyWait = r :: rest → d.controlQueue.length < 8 → exec .replyWaitAdmit s = .next { s with
      delivery := { d with controlQueue := d.controlQueue ++ [r], replyWait := rest } }) ∧
    (8 ≤ d.controlQueue.length ∨ d.replyWait = [] → exec .replyWaitAdmit s = .next s)

/-! ### Sessions -/

/-- OPEN_SESSION: opened, or renewed with its staging list kept, with a timeout of 1 to 60 s;
BAD_ARGUMENT, and no session opened or changed, for any other argument; under the open session's token with the last
sequence again, the cached reply byte for byte, or PENDING for a pending COMMIT marker, with the idle timer restarted and
the argument not examined; SESSION_HELD under another token. -/
def Obligations.OpenSessionOpensOrRenews : Prop :=
  ∀ (s : State) (c : Command) (rest : List Command), s.waiting c rest → c.code = 0x01 →
    let s' := s.inboxLeft rest
    let opened (b : Byte) (staging : List StagedChange) := { s'.replied c .ok (be32 s.generation ++ [b]) with
      session := some {
        token := c.token, last := c.seq, idleTimeout := b.toNat, staging := staging
        cache := .reply { token := c.token, seq := c.seq, code := c.code, result := .ok,
                          data := be32 s.generation ++ [b] }
        idleExpiry := s.elapsed + (b.toNat * 1000000) } }
    let good := ∃ b : Byte, c.args = [b] ∧ 1 ≤ b.toNat ∧ b.toNat ≤ 60
    (∀ b : Byte, s.session = none → c.args = [b] → 1 ≤ b.toNat → b.toNat ≤ 60 →
      exec .openSession s = .next (opened b [])) ∧
    (s.session = none → ¬good → exec .openSession s = .next (s'.replied c .badArgument [])) ∧
    ∀ ss : Session, s.session = some ss →
      (∀ b : Byte, ss.token = c.token → c.seq ≠ ss.last → c.args = [b] → 1 ≤ b.toNat → b.toNat ≤ 60 →
        exec .openSession s = .next (opened b ss.staging)) ∧
      (ss.token = c.token → c.seq ≠ ss.last → ¬good → exec .openSession s = .next (s'.replied c .badArgument [])) ∧
      (∀ r : Reply, ss.token = c.token → c.seq = ss.last → ss.cache = .reply r →
        exec .openSession s = .next (s'.idleRestarted.sending (replyFrame r))) ∧
      (∀ t q, ss.token = c.token → c.seq = ss.last → ss.cache = .pendingCommit t q →
        exec .openSession s = .next (s'.idleRestarted.replied c .pending [])) ∧
      (ss.token ≠ c.token → exec .openSession s = .next (s'.replied c .sessionHeld []))

/-- CLOSE_SESSION, executed as the session's next command: OK, and the session ceases to exist
with its cache and timer, no notice raised; with argument bytes BAD_ARGUMENT, and the session stays open; a
retransmission then finds no session. -/
def Obligations.CloseSessionEndsTheSession : Prop :=
  ∀ (s : State) (c : Command) (rest : List Command), s.waiting c rest → c.code = 0x02 →
    (s.nextInSession c → c.args = [] →
      exec .closeSession s = .next { (s.inboxLeft rest).replied c .ok [] with session := none }) ∧
    (s.nextInSession c → c.args ≠ [] →
      exec .closeSession s = .next ((s.inboxLeft rest).executed c .badArgument [])) ∧
    (s.session = none → exec .closeSession s = .next ((s.inboxLeft rest).replied c .noSession []))

/-- The token and the sequence decide whether a command other than OPEN_SESSION is executed. A session command with no
session open under its token is answered NO_SESSION. Under the session, the last sequence again is answered from the
reply cache, byte for byte, or PENDING for a pending COMMIT marker, and restarts the idle timer; a sequence that is
neither the last nor the next is answered OUT_OF_ORDER. Nothing else changes in any of these. Each reply, as in every
statement about a command, goes where `State.sending` says: into the control queue, behind the replies that wait when it
finds no place, or nowhere while the delivery link is down. -/
def Obligations.TokenAndSequenceGuardExecution : Prop :=
  ∀ (i : Instr) (s : State) (c : Command) (rest : List Command),
    i ∈ sessionCommands ∨ i ∈ openCommands → takesCommand i c = true → s.waiting c rest →
    (i ∈ sessionCommands → s.foreignToken c → exec i s = .next ((s.inboxLeft rest).replied c .noSession [])) ∧
    ∀ ss : Session, s.session = some ss → ss.token = c.token →
      (∀ r : Reply, c.seq = ss.last → ss.cache = .reply r →
        exec i s = .next ((s.inboxLeft rest).idleRestarted.sending (replyFrame r))) ∧
      (∀ t q, c.seq = ss.last → ss.cache = .pendingCommit t q →
        exec i s = .next ((s.inboxLeft rest).idleRestarted.replied c .pending [])) ∧
      (c.seq ≠ ss.last → c.seq ≠ ss.last + 1 → exec i s = .next ((s.inboxLeft rest).replied c .outOfOrder []))

/-- IDLE_EXPIRY: when the timer has reached its expiry the session ceases to exist and SESSION_EXPIRED is raised; before
that nothing happens. (That an expiry commanded before its time does not occur is the model's reading: log 2.) -/
def Obligations.IdleExpiryClosesTheSession : Prop :=
  ∀ (s : State) (ss : Session), s.session = some ss →
    (ss.idleExpiry ≤ s.elapsed → exec .idleExpiry s = .next { s with
      session := none
      notices := s.notices.raising [⟨.sessionExpired, .part, 0xFFFF, 0⟩] }) ∧
    (s.elapsed < ss.idleExpiry → exec .idleExpiry s = .next s)

/-! ### Part commands -/

/-- STATUS, READ_STREAM, READ_FEED, READ_NOTICES and an unknown code, as stateless commands or as the session's next:
each answers with its data, a part code or a feed above 3 is answered BAD_ARGUMENT, and nothing changes but the inbox,
the control queue and the session's record of the command. (STATUS is read at one moment: the model's choice, log 4.
RUNTIME of a DISABLED slot has the latch as it stands and zeros: log 16.) -/
def Obligations.OpenCommandsOnlyAnswer : Prop :=
  ∀ (i : Instr) (s : State) (c : Command) (rest : List Command) (r : ResultCode) (d : List Byte),
    takesCommand i c = true → s.waiting c rest →
    ((i = .status ∧ c.args = [] ∧ r = .ok ∧ d = s.statusData) ∨
     (i = .readNotices ∧ c.args = [] ∧ r = .ok ∧ d =
       [byteOf s.notices.queue.length, byteOf s.notices.credits, byteOf s.notices.creditMax] ++
         be16 (BitVec.ofNat 16 s.notices.refillInterval) ++ be16 s.notices.mask ++ be16 s.notices.lost) ∨
     (∃ f : Feed, i = .readFeed ∧ c.args = [feedByte f] ∧ r = .ok ∧ d = s.readFeedData f) ∨
     (∃ j : Slot, i = .readStream ∧ c.args = [slotByte j, 0] ∧ r = .ok ∧
       d = [slotByte j, 0, slotStateCode (s.liveEntry j)] ++ ((s.liveEntry j).map entryRecord).getD []) ∨
     (∃ j : Slot, i = .readStream ∧ c.args = [slotByte j, 1] ∧ (∀ ch ∈ s.stagingList, ch.slot ≠ j) ∧
       r = .notStaged ∧ d = []) ∨
     (∃ j ch, i = .readStream ∧ c.args = [slotByte j, 1] ∧ s.stagingList.find? (fun x => x.slot == j) = some ch ∧
       r = .ok ∧ d = [slotByte j, 1, slotStateCode (s.liveEntry j)] ++ ch.change.bytes) ∨
     (∃ j : Slot, i = .readStream ∧ c.args = [slotByte j, 2] ∧ r = .ok ∧
       d = [slotByte j, 2, slotStateCode (s.liveEntry j)] ++
         if s.liveEntry j = none then [] else runtimeBytes (rd s.runtimes j) (rd s.streamLatches j)) ∨
     (∃ j : Slot, i = .readStream ∧ c.args = [slotByte j, 3] ∧ r = .ok ∧
       d = [slotByte j, 3, slotStateCode (s.liveEntry j)] ++
         if s.liveEntry j = none then List.replicate 52 0 else (rd s.runtimes j).counters.bytes) ∨
     (i = .readStream ∧ (∃ a part, c.args = [a, part] ∧ 3 < part.toNat) ∧ r = .badArgument ∧ d = []) ∨
     (i = .readFeed ∧ (∃ b, c.args = [b] ∧ 3 < b.toNat) ∧ r = .badArgument ∧ d = []) ∨
     (i = .unknownCommand ∧ r = .unknownCommand ∧ d = [])) →
    (s.foreignToken c → exec i s = .next ((s.inboxLeft rest).replied c r d)) ∧
    (s.nextInSession c → exec i s = .next ((s.inboxLeft rest).executed c r d))

/-- The data of the replies, field by field at the offsets of their tables: STATUS of 50 bytes, READ_FEED of 67,
READ_NOTICES of 9, the runtime fields of 28 and 3 for each held entry, the counters in the order of their tables, the
stream entry record and the feed settings record, the reply envelope and the frame that carries it, multi-byte fields
most significant byte first, and every code of 6.6.5, 6.6.6 and R132 (a command's code stands in its own statement). -/
def Obligations.ReplyDataFollowTheirLayouts : Prop :=
  (∀ s : State, s.statusData.length = 50 ∧ fieldsAt s.statusData [
    (0, [0x42, 0x56, 1]), (3, be32 s.generation), (7, [s.live.code, s.engine.code]),
    (9, [byteOf s.stagingList.length, flagByte s.session.isSome]), (11, be16 ((s.session.map (·.token)).getD 0)),
    (13, be16 (BitVec.ofNat 16 s.pool.free)), (15, [flagByte s.pool.pressure]),
    (16, be16 (BitVec.ofNat 16 s.dataQueue.length)), (18, [byteOf s.delivery.controlQueue.length]),
    (19, [byteOf s.delivery.replyWait.length]), (20, [byteOf s.notices.queue.length]), (21, be16 s.notices.lost),
    (23, allFeeds.map fun f => (rd s.monitors f).state.code + if (rd s.monitors f).usable then 0x80 else 0),
    (27, [byteOf (allFeeds.filter (rd s.feedLatches)).length]),
    (28, be16 (BitVec.ofNat 16 (allSlots.filter (rd s.streamLatches)).length)), (30, be32 s.partTime),
    (34, be32 s.delivery.errored), (38, be32 s.delivery.foreign), (42, be32 s.delivery.flushed),
    (46, be32 s.inboxOverflows)]) ∧
  (∀ (s : State) (f : Feed), let m := rd s.monitors f
    let w := m.window.getD { expiry := 0, valid := 0, errored := 0 }
    (s.readFeedData f).length = 67 ∧ fieldsAt (s.readFeedData f) [
      (0, [feedByte f]), (1, settingsRecord m.current), (10, [flagByte m.pending.isSome]),
      (11, (m.pending.map settingsRecord).getD (List.replicate 9 0)),
      (20, [m.state.code, flagByte m.link, flagByte m.usable, byteOf m.acceptedRun, byteOf m.rejectTally]),
      (25, [flagByte m.window.isSome]), (26, be16 w.valid), (28, be16 w.errored),
      (30, [flagByte (rd s.feedLatches f)]), (31, m.counters.bytes)]) ∧
  (∀ s : State, s.readNoticesData.length = 9 ∧ fieldsAt s.readNoticesData [
    (0, [byteOf s.notices.queue.length, byteOf s.notices.credits, byteOf s.notices.creditMax]),
    (3, be16 (BitVec.ofNat 16 s.notices.refillInterval)), (5, be16 s.notices.mask), (7, be16 s.notices.lost)]) ∧
  (∀ (r : Runtime) (latch : Bool),
    let q := r.selector.getD { state := .noFeed, active := none, holdOff := none, rescueRun := none, reviewPending := false }
    let k := r.candidate.getD { seq := 0, count := 0 }
    (runtimeBytes r latch).length = 28 + 3 * r.hold.length ∧ fieldsAt (runtimeBytes r latch) [
      (0, [r.mergeState.code]), (1, flagByte r.nes.isSome :: be16 (r.nes.getD 0)),
      (4, flagByte r.candidate.isSome :: be16 k.seq ++ [byteOf k.count]),
      (8, flagByte r.due.isSome :: be32 (partTimeOf (r.due.getD 0))),
      (13, [byteOf r.placeholderRun, flagByte r.gapMark, flagByte latch]),
      (16, [flagByte r.selector.isSome, q.state.code, feedOrNone q.active]),
      (19, flagByte q.holdOff.isSome :: be32 (partTimeOf (q.holdOff.getD 0))),
      (24, [feedOrNone (q.rescueRun.map (·.feed)), byteOf ((q.rescueRun.map (·.count)).getD 0)]),
      (26, [flagByte q.reviewPending, byteOf r.hold.length]),
      (28, r.hold.flatMap fun h => be16 h.seq ++ [feedByte h.feed])]) ∧
  (∀ k : StreamCounters, k.bytes = [k.delivered, k.rescued, k.placeholders, k.suppressed, k.gapEvents, k.lostSequences,
    k.lateDuplicates, k.outOfWindow, k.resyncs, k.strayCopies, k.foreignCopies, k.noBufferDrops,
    k.undeliverable].flatMap be32) ∧
  (∀ k : FeedCounters, k.bytes = [k.valid, k.errored, k.unknownTag, k.misdirected, k.unusableDrops, k.windowsAccepted,
    k.windowsNeutral, k.windowsRejected, k.quarantines].flatMap be32) ∧
  (∀ e : Entry, e.wellFormed = true → fieldsAt (entryRecord e) [
    (1, be16 e.tag ++ [byteOf e.feeds.length]), (4, e.feeds.map feedByte), (8, [e.origin.getD 0]),
    (9, be32 (BitVec.ofNat 32 e.period)), (13, be16 (BitVec.ofNat 16 e.slack)), (15, be16 (BitVec.ofNat 16 e.window)),
    (17, [byteOf e.holdLimit, byteOf e.resyncThreshold, byteOf e.placeholderLimit]),
    (20, match e.mode with
      | .first => [0, 0, 0]
      | .preferred p => be16 (BitVec.ofNat 16 p.holdOff) ++ [byteOf p.rescueThreshold])] ∧
    (byteAt (entryRecord e) 0).getLsbD 0 = e.enabled ∧ (byteAt (entryRecord e) 0).getLsbD 2 = e.origin.isSome ∧
    ((byteAt (entryRecord e) 0).getLsbD 1 = true ↔ e.mode ≠ .first) ∧
    ((byteAt (entryRecord e) 0).getLsbD 3 = true ↔ e.mode ≠ .first) ∧
    ((byteAt (entryRecord e) 0).getLsbD 4 = true ↔ ∃ p, e.mode = .preferred p ∧ p.revertive = true) ∧
    (byteAt (entryRecord e) 0).extractLsb' 5 3 = 0) ∧
  (∀ c : Settings, fieldsAt (settingsRecord c) [
    (0, be16 (BitVec.ofNat 16 c.windowLength)), (2, be16 (BitVec.ofNat 16 c.minValid)),
    (4, [byteOf c.acceptMargin, byteOf c.rejectMargin, byteOf c.qualify, byteOf c.disqualify])] ∧
    (byteAt (settingsRecord c) 8).getLsbD 0 = c.advisory ∧ (byteAt (settingsRecord c) 8).getLsbD 1 = c.disabled ∧
    (byteAt (settingsRecord c) 8).extractLsb' 2 6 = 0) ∧
  (∀ r : Reply, replyFrame r =
    { kind := .reply, marks := 0, tag := 0xFFFF, seq := 0, origin := 0
      payload := be16 r.token ++ [r.seq, r.code, r.result.code] ++ r.data }) ∧
  (∀ w : BitVec 16, be16 w = [w.extractLsb' 8 8, w.extractLsb' 0 8]) ∧
  (∀ w : BitVec 32, be32 w = [w.extractLsb' 24 8, w.extractLsb' 16 8, w.extractLsb' 8 8, w.extractLsb' 0 8]) ∧
  flagByte false = 0 ∧ flagByte true = 1 ∧ (∀ f : Feed, (feedByte f).toNat = f.val) ∧
  (∀ i : Slot, (slotByte i).toNat = i.val) ∧ feedOrNone none = 0xFF ∧ (∀ f : Feed, feedOrNone (some f) = feedByte f) ∧
  (∀ f : Feed, (Subject.feed f).bytes = [1, feedByte f]) ∧ (∀ i : Slot, (Subject.stream i).bytes = [2, slotByte i]) ∧
  Subject.part.bytes = [0, 0] ∧ slotStateCode none = 0 ∧
  (∀ e : Entry, slotStateCode (some e) = if e.enabled then 2 else 1) ∧
  [FrameKind.sample, .command, .reply, .notice].map (·.code) = [0x01, 0x02, 0x03, 0x04] ∧
  [ResultCode.ok, .pending, .busy, .noSession, .sessionHeld, .outOfOrder, .badArgument, .unknownCommand, .stagingFull,
    .notStaged, .stale, .invalidEntry, .aborted].map (·.code) =
    [0x00, 0x01, 0x02, 0x03, 0x04, 0x05, 0x06, 0x07, 0x08, 0x09, 0x0A, 0x0B, 0x0C] ∧
  [EntryReason.fieldRange, .feedList, .selectionPart, .reservedTag, .tagDuplicate].map (·.code) =
    [0x01, 0x02, 0x03, 0x04, 0x05] ∧
  [NoticeKind.feedUnusable, .feedUsable, .streamGap, .streamBridging, .streamStarved, .streamRecovered, .streamResync,
    .activeSwitch, .foreignCopy, .poolExhausted, .poolRecovered, .sessionExpired, .inboxOverflow].map
      (fun k => (k.code, k.bit)) =
    [(0x01, 0), (0x02, 1), (0x10, 2), (0x11, 3), (0x12, 4), (0x13, 5), (0x14, 6), (0x15, 7), (0x16, 8), (0x20, 9),
      (0x21, 10), (0x30, 11), (0x31, 12)] ∧
  [UnusableCause.linkDown, .quarantine, .disable, .reset].map (·.code) = [0x01, 0x02, 0x03, 0x04] ∧
  [BankId.a, .b].map (·.code) = [0, 1] ∧
  (∀ cs k c, [EngineState.ready, .preparing c k, .syncing cs none, .syncing cs (some c)].map (·.code) = [0, 1, 2, 3]) ∧
  [MergeState.disabled, .seeking, .tracking, .bridging, .starved].map (·.code) = [0, 1, 2, 3, 4] ∧
  [SelectorState.noFeed, .primary, .backup, .revertWait].map (·.code) = [0, 1, 2, 3] ∧
  [FeedState.disabled, .down, .probation, .inService, .quarantine].map (·.code) = [0, 1, 2, 3, 4]

/-- A command of sections 8 to 10 with the wrong number of argument bytes is answered BAD_ARGUMENT and leaves the part as
it was: executed as the session's next command (CLOSE_SESSION of 8.5 and RESET_PART of 9.5 among them), and, for an open
command, executed statelessly. (A RESET_PART of a wrong length is taken by the row of RESTART: the model's choice, log
14.) -/
def Obligations.WrongLengthIsBadArgument : Prop :=
  ∀ (i : Instr) (s : State) (c : Command) (rest : List Command) (k : Nat), takesCommand i c = true →
    s.waiting c rest → argumentLength i = some k → c.args.length ≠ k →
    (s.nextInSession c → exec i s = .next ((s.inboxLeft rest).executed c .badArgument [])) ∧
    (i ∈ openCommands → s.foreignToken c → exec i s = .next ((s.inboxLeft rest).replied c .badArgument []))

/-- SET_FEED as the session's next command. With a window running the settings become pending, with none they are adopted
at once. Advisory and disabled act at once: advisory set makes an unusable feed with a window usable, and cleared makes
one that is not in service unusable with cause quarantine; a disable takes the feed to DISABLED, its window and store
abandoned, and a usable feed becomes unusable with cause disable; an enable takes it to DOWN, or with the link up to
PROBATION with its first window, usable with advisory set. Ten bytes with a value out of range are answered BAD_ARGUMENT
and change nothing. (Pending and current agree in advisory and disabled: log 8. A command that both disables a feed and
clears its advisory reports disable: the model's choice, log 28.) -/
def Obligations.SetFeedTakesTheSettings : Prop :=
  (∀ (s : State) (c : Command) (rest : List Command), s.waiting c rest → s.nextInSession c → c.code = 0x20 →
    c.args.length = 10 →
    3 < (byteAt c.args 0).toNat ∨ (word16At c.args 1).toNat < 100 ∨ (byteAt c.args 6).toNat < (byteAt c.args 5).toNat ∨
      (byteAt c.args 7).toNat = 0 ∨ 15 < (byteAt c.args 7).toNat ∨ (byteAt c.args 8).toNat = 0 ∨
      15 < (byteAt c.args 8).toNat →
    exec .setFeed s = .next ((s.inboxLeft rest).executed c .badArgument [])) ∧
  ∀ (s : State) (c : Command) (rest : List Command) (f : Feed) (p : Settings), s.waiting c rest →
    s.nextInSession c → c.code = 0x20 → c.args = feedByte f :: settingsRecord p → p.wellFormed = true →
    (rd s.monitors f).consistent →
    let m := rd s.monitors f
    let s' := s.inboxLeft rest
    let put (m' : Monitor) : State := { s' with monitors := wr s.monitors f m' }
    let usable (t : State) : State := { t with
      feedEvents := wr s.feedEvents f (rd s.feedEvents f + 1)
      notices := s.notices.raising [⟨.feedUsable, .feed f, 0xFFFF, 0⟩] }
    let unusable (cause : BitVec 16) (t : State) : State := { t with
      feedEvents := wr s.feedEvents f (rd s.feedEvents f + 1)
      feedLatches := wr s.feedLatches f true
      notices := s.notices.raising [⟨.feedUnusable, .feed f, 0xFFFF, cause⟩] }
    let waits := { m with pending := some p, current := { m.current with advisory := p.advisory } }
    let on := { m with
      state := .probation, current := p, pending := none, usable := p.advisory
      window := some { expiry := s.elapsed + p.windowLength, valid := 0, errored := 0 } }
    let off := { m with
      state := .disabled, window := none, acceptedRun := 0, rejectTally := 0, current := p, pending := none
      usable := false }
    let stopped : State := { put off with ports := wr s.ports f { rd s.ports f with receiveStore := [] } }
    let answers (t : State) := exec .setFeed s = .next (t.executed c .ok [])
    (p.disabled = m.current.disabled → m.window = none → answers (put { m with current := p, pending := none })) ∧
    (p.disabled = m.current.disabled → m.window.isSome = true →
      (p.advisory = m.current.advisory ∨ m.state = .inService → answers (put waits)) ∧
      (p.advisory = true → m.usable = false → answers (usable (put { waits with usable := true }))) ∧
      (p.advisory = false → m.usable = true → m.state ≠ .inService →
        answers (unusable 0x0200 (put { waits with usable := false })))) ∧
    (p.disabled = true → m.current.disabled = false →
      (m.usable = false → answers stopped) ∧ (m.usable = true → answers (unusable 0x0300 stopped))) ∧
    (p.disabled = false → m.current.disabled = true →
      (m.link = false → answers (put { m with state := .down, current := p, pending := none })) ∧
      (m.link = true → p.advisory = false → answers (put on)) ∧
      (m.link = true → p.advisory = true → answers (usable (put on))))

/-- SET_NOTICES as the session's next command: mask, maximum and interval replaced, credits reduced to the maximum, the
refill timer restarted; the notices raised before stay to be taken as the old mask has it, and the new one governs those
raised after. A maximum or interval out of range, or another length, is answered BAD_ARGUMENT and changes nothing. (That a
raised notice waits until it is taken is the model's reading: log 5.) -/
def Obligations.SetNoticesReplacesTheSettings : Prop :=
  ∀ (s : State) (c : Command) (rest : List Command), s.waiting c rest → s.nextInSession c → c.code = 0x21 →
    let good := c.args.length = 5 ∧ 1 ≤ (byteAt c.args 2).toNat ∧ (byteAt c.args 2).toNat ≤ 16 ∧
      1 ≤ (word16At c.args 3).toNat ∧ (word16At c.args 3).toNat ≤ 1000
    (good → exec .setNotices s = .next (State.executed { s.inboxLeft rest with notices := { s.notices with
      earlier := s.notices.earlier ++ s.notices.raised.filter fun n => s.notices.mask.getLsbD n.kind.bit
      raised := []
      mask := word16At c.args 0 &&& 0x1FFF
      creditMax := (byteAt c.args 2).toNat
      credits := min s.notices.credits (byteAt c.args 2).toNat
      refillInterval := (word16At c.args 3).toNat
      refillExpiry := s.elapsed + ((word16At c.args 3).toNat * 1000) } } c .ok [])) ∧
    (¬good → exec .setNotices s = .next ((s.inboxLeft rest).executed c .badArgument []))

/-- CLEAR_COUNTERS as the session's next command: the counters of the target are 0, and nothing else of the part
changes; a type above 3, or a feed above 3 with type 1, is answered BAD_ARGUMENT. (Type 3 is one step of
the model: log 4.) -/
def Obligations.ClearCountersClearsItsTarget : Prop :=
  ∀ (s : State) (c : Command) (rest : List Command) (type number : Byte), s.waiting c rest → s.nextInSession c →
    c.code = 0x22 → c.args = [type, number] →
    let s' := s.inboxLeft rest
    let port := { s.delivery with errored := 0, foreign := 0, flushed := 0 }
    (∀ i : Slot, type = 0 → number = slotByte i → exec .clearCounters s = .next
      ((s'.setRuntime i { rd s.runtimes i with counters := StreamCounters.zero }).executed c .ok [])) ∧
    (∀ f : Feed, type = 1 → number = feedByte f → exec .clearCounters s = .next
      ((s'.setMonitor f { rd s.monitors f with counters := FeedCounters.zero }).executed c .ok [])) ∧
    (type = 2 → exec .clearCounters s = .next (State.executed { s' with delivery := port } c .ok [])) ∧
    (type = 3 → ∃ t : State, exec .clearCounters s = .next (t.executed c .ok []) ∧
      t = { s' with delivery := port, inboxOverflows := 0, runtimes := t.runtimes, monitors := t.monitors } ∧
      (∀ i, rd t.runtimes i = { rd s.runtimes i with counters := StreamCounters.zero }) ∧
      ∀ f, rd t.monitors f = { rd s.monitors f with counters := FeedCounters.zero }) ∧
    (3 < type.toNat ∨ (type = 1 ∧ 3 < number.toNat) →
      exec .clearCounters s = .next (s'.executed c .badArgument []))

/-- RESTART_STREAM as the session's next command: an ENABLED stream goes to SEEKING with its hold list freed, timers
cancelled, candidate, runs and gap mark cleared, counters kept, and a PREFERRED selector at its best usable feed; the
freed buffers clear the pressure flag where 32 are free then. A slot that is not ENABLED is answered BAD_ARGUMENT.
(POOL_RECOVERED before ACTIVE_SWITCH: the model's order, log 6.) -/
def Obligations.RestartStreamSeeksAgain : Prop :=
  ∀ (s : State) (c : Command) (rest : List Command) (i : Slot), s.waiting c rest → s.nextInSession c →
    c.code = 0x23 → c.args = [slotByte i] →
    let r := rd s.runtimes i
    let s' := s.inboxLeft rest
    let free := s.pool.free + r.hold.length
    let recovers := r.hold ≠ [] ∧ s.pool.pressure = true ∧ 32 ≤ free
    let seeking (q : Option Selector) (switch : List Notice) : State :=
      { s'.setRuntime i { Runtime.disabled r.counters with mergeState := .seeking, selector := q } with
        pool := { free := free, pressure := if recovers then false else s.pool.pressure }
        notices := s.notices.raising (poolRecovered recovers ++ switch) }
    (s.enabledEntry i = none → exec .restartStream s = .next (s'.executed c .badArgument [])) ∧
    (∀ e, s.enabledEntry i = some e → e.mode = .first → r.selector = none →
      exec .restartStream s = .next ((seeking none []).executed c .ok [])) ∧
    ∀ e p q, s.enabledEntry i = some e → e.mode = .preferred p → r.selector = some q →
      exec .restartStream s = .next
        ((seeking (some (s.selectorAtBest e)) (switchNotice i e q.active (s.bestUsable e))).executed c .ok [])

/-- ACK_ALARMS as the session's next command: exactly the set latches of the target whose condition is absent are cleared
(a feed latch while its feed is usable, a stream latch while its stream is not BRIDGING or STARVED), and the reply counts
them and the target's latches still set. ALERT is asserted, then as in every state, exactly while a latch is set. (All the
tests are one step of the model: log 4.) -/
def Obligations.AckAlarmsClearsUnheldLatches : Prop :=
  (∀ s : State, s.alert = true ↔ (∃ f, rd s.feedLatches f = true) ∨ ∃ i, rd s.streamLatches i = true) ∧
  ∀ (s : State) (c : Command) (rest : List Command) (type number : Byte), s.waiting c rest → s.nextInSession c →
    c.code = 0x24 → c.args = [type, number] →
    let s' := s.inboxLeft rest
    let feedIn (f : Feed) : Bool := type == 0 && number == feedByte f || type == 2 || type == 4
    let slotIn (i : Slot) : Bool := type == 1 && number == slotByte i || type == 3 || type == 4
    let stuck (i : Slot) : Bool :=
      (rd s.runtimes i).mergeState == .bridging || (rd s.runtimes i).mergeState == .starved
    let count (p : Feed → Bool) (q : Slot → Bool) := be16 (BitVec.ofNat 16 ((allFeeds.filter p).length + (allSlots.filter q).length))
    (4 < type.toNat ∨ (type = 0 ∧ 3 < number.toNat) →
      exec .ackAlarms s = .next (s'.executed c .badArgument [])) ∧
    (¬(4 < type.toNat ∨ (type = 0 ∧ 3 < number.toNat)) → ∃ t : State,
      exec .ackAlarms s = .next (t.executed c .ok
        (count (fun f => feedIn f && rd s.feedLatches f && (rd s.monitors f).usable)
            (fun i => slotIn i && rd s.streamLatches i && !stuck i) ++
          count (fun f => feedIn f && rd s.feedLatches f && !(rd s.monitors f).usable)
            (fun i => slotIn i && rd s.streamLatches i && stuck i))) ∧
      t = { s' with feedLatches := t.feedLatches, streamLatches := t.streamLatches } ∧
      (∀ f, rd t.feedLatches f = if feedIn f && (rd s.monitors f).usable then false else rd s.feedLatches f) ∧
      ∀ i, rd t.streamLatches i = if slotIn i && !stuck i then false else rd s.streamLatches i)

/-- RESET_PART, level RESTART, as the session's next command: the commit in hand is answered ABORTED, the standby bank is
a copy of the live bank and the engine READY, every enabled stream is SEEKING with its counters and its selector
re-evaluated, with an ACTIVE_SWITCH for each stream whose active feed changes, the data queue is flushed and counted, and
OK follows with the level and the generation. The pressure flag stays set only while fewer than 32 buffers are free, and
its clearing raises POOL_RECOVERED. Any argument byte but 1 and 2 is answered BAD_ARGUMENT. (All its steps are one step
of the model: log 4. That this row takes a RESET_PART of no defined level is its choice: log 14. The order of the notices
is the model's: logs 6, 23 and 26.) -/
def Obligations.RestartSeeksEveryStream : Prop :=
  ∀ (s : State) (c : Command) (rest : List Command) (level : Byte), s.waiting c rest → s.nextInSession c →
    c.code = 0x2F → c.args = [level] →
    let s' := s.inboxLeft rest
    let aborted := s.engine.abandoned.map fun k =>
      replyFrame { token := k.token, seq := k.seq, code := 0x33, result := .aborted, data := [] }
    let switched (i : Slot) :=
      match s.enabledEntry i with
      | none => []
      | some e =>
        match e.mode, (rd s.runtimes i).selector with
        | .preferred _, some q => switchNotice i e q.active (s.bestUsable e)
        | _, _ => []
    (level ≠ 1 → level ≠ 2 → exec .resetPartRestart s = .next (s'.executed c .badArgument [])) ∧
    (level = 1 → ∃ t : State, exec .resetPartRestart s = .next (t.executed c .ok (1 :: be32 s.generation)) ∧
      t = { s' with
        bankA := s.liveBank
        bankB := s.liveBank
        engine := .ready
        runtimes := t.runtimes
        pool := t.pool
        dataQueue := []
        delivery := { (aborted.foldl State.sending s').delivery with
          flushed := satAdd s.delivery.flushed s.dataQueue.length }
        notices := s.notices.raising (allSlots.flatMap switched ++
          poolRecovered (s.pool.pressure = true ∧ 32 ≤ t.pool.free)) } ∧
      t.pool.free + t.heldEntries = s.pool.free + s.heldEntries + s.dataQueue.length ∧
      t.pool.pressure = (s.pool.pressure && decide (t.pool.free < 32)) ∧
      ∀ i : Slot,
        let r := rd s.runtimes i
        (s.enabledEntry i = none → rd t.runtimes i = r) ∧
        (∀ e, s.enabledEntry i = some e → e.mode = .first → r.selector = none →
          rd t.runtimes i = { Runtime.disabled r.counters with mergeState := .seeking }) ∧
        ∀ e p q, s.enabledEntry i = some e → e.mode = .preferred p → r.selector = some q →
          rd t.runtimes i = { Runtime.disabled r.counters with
            mergeState := .seeking, selector := some (s.selectorAtBest e) })

/-- RESET_PART, level CLEAR, as the session's next command: the queues and both banks empty, every stream DISABLED and
every counter 0, generation 0 with bank A live, the notice unit and the monitors at their power-on values with
FEED_UNUSABLE of cause reset for each feed that was usable, the commit in hand answered ABORTED and then OK with the
level and 0, unless the delivery link is down, and the session closed. Links, part time, offered copies, waiting commands
and the frame in transmission are kept, as are the notices raised and not yet taken, as the mask they were raised under
has it (log 5). (All its steps are one step of the model: log 4; the order of the feeds among the notices of FEED_UNUSABLE
is its choice: log 26.) -/
def Obligations.ClearEmptiesThePart : Prop :=
  ∀ (s : State) (c : Command) (rest : List Command), s.waiting c rest → s.nextInSession c →
    c.code = 0x2F → c.args = [2] →
    let aborted := s.engine.abandoned.map fun k =>
      replyFrame { token := k.token, seq := k.seq, code := 0x33, result := .aborted, data := [] }
    let done := replyFrame { token := c.token, seq := c.seq, code := 0x2F, result := .ok, data := [2, 0, 0, 0, 0] }
    let lost := allFeeds.filter fun f => (rd s.monitors f).usable
    exec .resetPartClear s = .next { s with
      monitors := tab fun f =>
        if (rd s.monitors f).link then
          { Monitor.reset with
            link := true, state := .probation
            window := some { expiry := s.elapsed + 10000, valid := 0, errored := 0 } }
        else Monitor.reset
      feedEvents := tab fun f => if (rd s.monitors f).usable then rd s.feedEvents f + 1 else rd s.feedEvents f
      bankA := Bank.empty
      bankB := Bank.empty
      live := .a
      generation := 0
      engine := .ready
      runtimes := tab fun _ => Runtime.disabled StreamCounters.zero
      pool := { free := s.pool.free + s.heldEntries + s.dataQueue.length, pressure := false }
      dataQueue := []
      delivery := { s.delivery with
        controlQueue := if s.delivery.linkUp = true then aborted ++ [done] else []
        dataRun := 0, errored := 0, foreign := 0, flushed := 0 }
      inbox := rest
      inboxOverflows := 0
      session := none
      notices := {
        earlier := s.notices.earlier ++ s.notices.raised.filter fun n => s.notices.mask.getLsbD n.kind.bit
        raised := lost.map fun f => ⟨.feedUnusable, .feed f, 0xFFFF, 0x0400⟩
        queue := [], lost := 0, mask := 0x1FFF, creditMax := 8, credits := 8, refillInterval := 50
        refillExpiry := s.elapsed + 50000 }
      feedLatches := tab fun _ => true
      streamLatches := tab fun _ => false }

/-! ### Commits -/

/-- STAGE_WRITE, STAGE_REMOVE and UNSTAGE as the session's next command: a change takes the place of the slot's change, or
joins the back of a list of fewer than 16, or is answered STAGING_FULL; a record that fails its check is answered
INVALID_ENTRY with the slot and the reason; UNSTAGE takes the slot's change out, or is answered NOT_STAGED. -/
def Obligations.StagingKeepsOneChangePerSlot : Prop :=
  ∀ (i : Instr) (s : State) (c : Command) (rest : List Command) (ss : Session) (slot : Slot),
    takesCommand i c = true → s.waiting c rest → s.nextInSession c → s.session = some ss →
    let s' := s.inboxLeft rest
    let staged (l : List StagedChange) := State.executed { s' with session := some { ss with staging := l } } c .ok
      [BitVec.ofNat 8 l.length]
    let present := ∃ x ∈ ss.staging, x.slot = slot
    (∀ change : Change,
      (i = .stageWrite ∧ ∃ r e, c.args = slotByte slot :: r ∧ r.length = 23 ∧ checkRecord r = .ok e ∧ change = .write e) ∨
        (i = .stageRemove ∧ c.args = [slotByte slot] ∧ change = .remove) →
      (present → exec i s = .next (staged (ss.staging.map fun x => if x.slot = slot then ⟨slot, change⟩ else x))) ∧
      (¬present → ss.staging.length < 16 → exec i s = .next (staged (ss.staging ++ [⟨slot, change⟩]))) ∧
      (¬present → 16 ≤ ss.staging.length → exec i s = .next (s'.executed c .stagingFull []))) ∧
    (∀ r w, i = .stageWrite → c.args = slotByte slot :: r → r.length = 23 → checkRecord r = .error w →
      exec i s = .next (s'.executed c .invalidEntry [slotByte slot, w.code])) ∧
    (i = .unstage → c.args = [slotByte slot] →
      (present → exec i s = .next (staged (ss.staging.filter fun x => x.slot != slot))) ∧
      (¬present → exec i s = .next (s'.executed c .notStaged [])))

/-- COMMIT of four argument bytes, as the session's next command: the checks of state, generation and tags in this order,
each with its reply and the staging list kept; and a COMMIT that passes them takes the staging list as its change list,
into prepare or behind the sync, leaves the pending COMMIT marker in the cache, and is given no reply yet. -/
def Obligations.CommitIsCheckedInOrder : Prop :=
  ∀ (s : State) (c : Command) (rest : List Command) (ss : Session), s.waiting c rest → s.nextInSession c →
    s.session = some ss → c.code = 0x33 → c.args.length = 4 →
    let s' := s.inboxLeft rest
    let busy := (∃ k r, s.engine = .preparing k r) ∨ ∃ cs k, s.engine = .syncing cs (some k)
    let result (j : Slot) : Option Entry :=
      match ss.staging.find? fun x => x.slot == j with
      | some ⟨_, .write e⟩ => some e
      | some ⟨_, .remove⟩ => none
      | none => s.liveEntry j
    let clashes (x : StagedChange) := ∃ e, x.change = .write e ∧ e.enabled = true ∧
      ∃ j e', j ≠ x.slot ∧ result j = some e' ∧ e'.enabled = true ∧ e'.tag = e.tag
    let accepted (engine : EngineState) : State := { s' with
      engine := engine
      session := some { ss with
        last := c.seq, cache := .pendingCommit c.token c.seq, staging := []
        idleExpiry := s.elapsed + (ss.idleTimeout * 1000000) } }
    let commit : Commit := { token := c.token, seq := c.seq, changes := ss.staging }
    (busy → exec .commit s = .next (s'.executed c .busy [])) ∧
    (¬busy → word32At c.args 0 ≠ s.generation → exec .commit s = .next (s'.executed c .stale [])) ∧
    (∀ pre x post, ¬busy → word32At c.args 0 = s.generation → ss.staging = pre ++ x :: post →
      (∀ y ∈ pre, ¬clashes y) → clashes x →
      exec .commit s = .next (s'.executed c .invalidEntry [slotByte x.slot, 0x05])) ∧
    (word32At c.args 0 = s.generation → (∀ x ∈ ss.staging, ¬clashes x) →
      (s.engine = .ready → exec .commit s = .next (accepted (.preparing commit false))) ∧
      ∀ cs, s.engine = .syncing cs none → exec .commit s = .next (accepted (.syncing cs (some commit))))

/-- PREPARE_COMPLETE and SYNC_COMPLETE write the change list into the standby bank, so that each touched slot holds its
change and every other slot what it held, and move the table engine on; with no prepare or sync running nothing
happens. (A command whose event cannot occur changes nothing: log 2.) -/
def Obligations.PrepareAndSyncWriteTheChanges : Prop :=
  (∀ (b : Bank) (cs : List StagedChange), (cs.map (·.slot)).Nodup →
    (∀ x ∈ cs, rd (b.applyChanges cs).slots x.slot =
      match x.change with
      | .write e => some e
      | .remove => none) ∧
    ∀ i : Slot, (∀ x ∈ cs, x.slot ≠ i) → rd (b.applyChanges cs).slots i = rd b.slots i) ∧
  ∀ s : State,
    (∀ k, s.engine = .preparing k false → exec .prepareComplete s = .next
      { s.setStandby (s.standbyBank.applyChanges k.changes) with engine := .preparing k true }) ∧
    ((∀ k, s.engine ≠ .preparing k false) → exec .prepareComplete s = .next s) ∧
    (∀ cs, s.engine = .syncing cs none → exec .syncComplete s = .next
      { s.setStandby (s.standbyBank.applyChanges cs) with engine := .ready }) ∧
    (∀ cs k, s.engine = .syncing cs (some k) → exec .syncComplete s = .next
      { s.setStandby (s.standbyBank.applyChanges cs) with engine := .preparing k false }) ∧
    ((∀ cs k, s.engine ≠ .syncing cs k) → exec .syncComplete s = .next s)

/-- SWAP of a requested swap: the banks change places, the generation rises by 1, the engine enters SYNCING, the deferred
OK is handed to the delivery port and takes the place of its marker in the cache, and nothing else changes but the
touched slots' records and latches, the pool, which keeps every buffer and a pressure flag set only below 32 free ones,
and what re-examinations add to the queue. A touched slot's record is initialised, reset, disabled or left as its states
before and after say. A retuned stream's hold list is trimmed and its candidate cleared; a PREFERRED one's rescue run is
cleared and its selector reviewed under the new entry, review pending cleared, and after a switch the hold list is
re-examined (R75 is followed where R76 speaks of a later review: log 27; an active feed that is not listed counts as not
usable: log 20). Every other slot's record and latch are untouched. With no swap requested nothing happens. (The reply's
hand-over is within the one step: log 4; with none requested nothing changes: log 2.) -/
def Obligations.SwapMakesTheTableLive : Prop :=
  ∀ s : State, ((∀ k, s.engine ≠ .preparing k true) → exec .swap s = .next s) ∧
    ∀ k : Commit, s.engine = .preparing k true → (k.changes.map (·.slot)).Nodup →
      let reply : Reply := { token := k.token, seq := k.seq, code := 0x33, result := .ok, data := be32 (s.generation + 1) }
      ∃ t, exec .swap s = .next t ∧
        t = { s with
          live := match s.live with
            | .a => .b
            | .b => .a
          generation := s.generation + 1
          engine := .syncing k.changes none
          runtimes := t.runtimes
          pool := t.pool
          dataQueue := t.dataQueue
          delivery := (s.sending (replyFrame reply)).delivery
          session := s.session.map fun ss =>
            if ss.cache = .pendingCommit k.token k.seq then { ss with cache := .reply reply } else ss
          notices := { s.notices with raised := t.notices.raised }
          streamLatches := t.streamLatches } ∧
        t.pool.free + t.heldEntries + t.dataQueue.length = s.pool.free + s.heldEntries + s.dataQueue.length ∧
        t.pool.pressure = (s.pool.pressure && decide (t.pool.free < 32)) ∧
        s.dataQueue <+: t.dataQueue ∧ s.notices.raised <+: t.notices.raised ∧
        (∀ i : Slot, (∀ x ∈ k.changes, x.slot ≠ i) →
          rd t.runtimes i = rd s.runtimes i ∧ rd t.streamLatches i = rd s.streamLatches i) ∧
        ∀ i : Slot, (∃ x ∈ k.changes, x.slot = i) →
          let r := rd s.runtimes i
          let before := (rd s.liveBank.slots i).filter (·.enabled)
          let present := rd s.standbyBank.slots i
          let after := present.filter (·.enabled)
          let latch := rd s.streamLatches i
          (∀ e, after = some e →
            (before = none ∨ ∃ o, before = some o ∧ (o.tag ≠ e.tag ∨ (o.mode = .first ↔ e.mode ≠ .first))) →
            rd t.streamLatches i = false ∧
            rd t.runtimes i = { Runtime.disabled StreamCounters.zero with
              mergeState := .seeking
              selector := if e.mode = .first then none else some (s.selectorAtBest e) }) ∧
          (before ≠ none → after = none → rd t.streamLatches i = latch ∧
            rd t.runtimes i = Runtime.disabled (if present = none then StreamCounters.zero else r.counters)) ∧
          (before = none → after = none → rd t.streamLatches i = latch ∧
            rd t.runtimes i = { r with counters := if present = none then StreamCounters.zero else r.counters }) ∧
          (∀ o e, before = some o → after = some e → o.tag = e.tag → o.mode = .first → e.mode = .first →
            (r.nes = none → r.hold = []) →
            rd t.streamLatches i = latch ∧ rd t.runtimes i = { r with hold := r.trimmed e, candidate := none }) ∧
          ∀ o e p q, before = some o → after = some e → o.tag = e.tag → o.mode ≠ .first → e.mode = .preferred p →
            r.selector = some q → (r.nes = none → r.hold = []) →
            let q' := s.reviewed e p { q with rescueRun := none }
            let r' := { r with hold := r.trimmed e, candidate := none, selector := some q' }
            rd t.streamLatches i = latch ∧ (q'.active = q.active → rd t.runtimes i = r') ∧
            ∀ run left, q'.active ≠ q.active → reexamined r' q'.active run left →
              rd t.runtimes i = s.reexamine e r' run left ∧ s.releaseFrames e r' run <:+: t.dataQueue ∧
              (switchNotice i e q.active q'.active ++ if run = [] then [] else recoveredNotice i e r) <:+:
                t.notices.raised

/-! ### Notices -/

/-- NOTICE_RAISE: the oldest notice that waits, one from before the latest setting of the mask before one raised since, is
coalesced into the record of its kind and subject, is appended below 32 as a new record with the tag of the live entry at
this moment, or is lost and counted. A notice raised since the latest setting whose kind the mask leaves out is not kept;
one from before stands under the mask it was raised under. With none waiting nothing happens. (That a raised notice waits
until it is taken, and keeps its own tag where its slot is EMPTY by then, is the model's reading: log 5; that the command
with none waiting changes nothing: log 2.) -/
def Obligations.RaisedNoticesAreQueuedOrLost : Prop :=
  ∀ (s : State) (n : Notice) (rest : List Notice),
    let v := s.notices
    let wanted := v.mask.getLsbD n.kind.bit = true
    (v.earlier = [] → v.raised = [] → exec .noticeRaise s = .next s) ∧
    (v.earlier = [] → v.raised = n :: rest → ¬wanted →
      exec .noticeRaise s = .next { s with notices := { v with raised := rest } }) ∧
    ∀ u : NoticeUnit, (v.earlier = n :: rest ∧ u = { v with earlier := rest }) ∨
        (v.earlier = [] ∧ v.raised = n :: rest ∧ wanted ∧ u = { v with raised := rest }) →
      let known := ∃ r ∈ v.queue, r.kind = n.kind ∧ r.subject = n.subject
      let tag :=
        match n.subject with
        | .stream i =>
          (match s.liveEntry i with
           | some e => e.tag
           | none => n.tag)
        | .feed _ => 0xFFFF
        | .part => 0xFFFF
      (known → exec .noticeRaise s = .next { s with notices := { u with
        queue := v.queue.map fun r =>
          if r.kind = n.kind ∧ r.subject = n.subject then
            { r with repeats := min (r.repeats + 1) 255, last := s.partTime }
          else r } }) ∧
      (¬known → v.queue.length < 32 → exec .noticeRaise s = .next { s with notices := { u with
        queue := v.queue ++ [
          { kind := n.kind, subject := n.subject, tag := tag, repeats := 1, first := s.partTime, last := s.partTime
            detail := n.detail }] } }) ∧
      (¬known → 32 ≤ v.queue.length → exec .noticeRaise s = .next { s with notices := { u with
        lost := satAdd16 v.lost 1 } })

/-- NOTICE_MOVE: under the five conditions the front record becomes a notice frame at the back of the control queue, with
the pending lost count, which is then 0, at the cost of one credit; otherwise nothing moves. REFILL_EXPIRY, once the timer
has reached its expiry: one more credit below the maximum, and the next expiry one interval later.
(That a command whose event cannot occur changes nothing is the model's reading: log 2.) -/
def Obligations.NoticesMoveAgainstCredits : Prop :=
  ∀ s : State,
    let u := s.notices
    let may := 1 ≤ u.credits ∧ s.delivery.linkUp = true ∧ s.delivery.controlQueue.length < 8 ∧
      (s.delivery.controlQueue.filter fun f => f.kind == .notice).length < 6 ∧ s.delivery.replyWait = []
    (∀ r rest, u.queue = r :: rest → may → exec .noticeMove s = .next { s with
      notices := { u with queue := rest, credits := u.credits - 1, lost := 0 }
      delivery := { s.delivery with controlQueue := s.delivery.controlQueue ++ [
        { kind := .notice, marks := 0, tag := 0xFFFF, seq := 0, origin := 0
          payload := be16 u.lost ++ [r.kind.code] ++ r.subject.bytes ++ be16 r.tag ++ [BitVec.ofNat 8 r.repeats] ++
            be32 r.first ++ be32 r.last ++ be16 r.detail }] } }) ∧
    (u.queue = [] ∨ ¬may → exec .noticeMove s = .next s) ∧
    (u.refillExpiry ≤ s.elapsed → exec .refillExpiry s = .next { s with notices := { u with
      credits := if u.credits < u.creditMax then u.credits + 1 else u.credits
      refillExpiry := u.refillExpiry + (u.refillInterval * 1000) } }) ∧
    (s.elapsed < u.refillExpiry → exec .refillExpiry s = .next s)
end

