-- ==== Sys2Proof/Laws/Tables.lean ====
section
/-! SUPPORT. The laws of the fixed-size tables: what reading an entry gives after a write, and of a tabulated table. -/

namespace Sys2Proof

variable {α : Type} {n : Nat}

@[simp] theorem rd_wr_self (v : Vector α n) (i : Fin n) (x : α) : rd (wr v i x) i = x := by
  simp [rd, wr]

theorem rd_wr_ne (v : Vector α n) {i j : Fin n} (x : α) (h : j ≠ i) : rd (wr v i x) j = rd v j := by
  have : (i : Nat) ≠ j := fun e => h (Fin.ext e.symm)
  simp [rd, wr, this]

theorem rd_wr (v : Vector α n) (i j : Fin n) (x : α) : rd (wr v i x) j = if j = i then x else rd v j := by
  split
  · subst j; simp
  · exact rd_wr_ne v x ‹_›

@[simp] theorem rd_tab (f : Fin n → α) (i : Fin n) : rd (tab f) i = f i := by simp [rd, tab]

@[simp] theorem rd_replicate (x : α) (i : Fin n) : rd (Vector.replicate n x) i = x := by simp [rd]

/-- Two tables with equal entries are equal. -/
theorem table_ext {v w : Vector α n} (h : ∀ i, rd v i = rd w i) : v = w := by
  ext i hi
  exact h ⟨i, hi⟩

@[simp] theorem wr_rd (v : Vector α n) (i : Fin n) : wr v i (rd v i) = v := by
  apply table_ext
  intro j
  rw [rd_wr]
  split
  · subst j; rfl
  · rfl

@[simp] theorem wr_wr (v : Vector α n) (i : Fin n) (x y : α) : wr (wr v i x) i y = wr v i y := by
  apply table_ext
  intro j
  simp only [rd_wr]
  split <;> rfl

theorem mem_allSlots (i : Slot) : i ∈ allSlots := List.mem_finRange i

theorem mem_allFeeds (f : Feed) : f ∈ allFeeds := List.mem_finRange f

/-- A sum over all indices in which one entry is exchanged. -/
theorem sum_wr {β : Type} (g : β → Nat) (v : Vector β n) (i : Fin n) (x : β) :
    ((List.finRange n).map fun j => g (rd (wr v i x) j)).sum + g (rd v i) =
      ((List.finRange n).map fun j => g (rd v j)).sum + g x := by
  have key : ∀ l : List (Fin n), l.Nodup → i ∈ l →
      (l.map fun j => g (rd (wr v i x) j)).sum + g (rd v i) = (l.map fun j => g (rd v j)).sum + g x := by
    intro l hl hi
    induction l with
    | nil => cases hi
    | cons a t ih =>
      rw [List.nodup_cons] at hl
      by_cases h : a = i
      · subst h
        have ht : t.map (fun j => g (rd (wr v a x) j)) = t.map fun j => g (rd v j) := by
          apply List.map_congr_left
          intro j hj
          rw [rd_wr_ne]
          rintro rfl
          exact hl.1 hj
        simp only [List.map_cons, List.sum_cons, rd_wr_self, ht]
        omega
      · have hit : i ∈ t := by
          rcases List.mem_cons.mp hi with h' | h'
          · exact absurd h'.symm h
          · exact h'
        have := ih hl.2 hit
        simp only [List.map_cons, List.sum_cons, rd_wr_ne v x h]
        omega
  exact key _ (List.nodup_finRange n) (List.mem_finRange i)

end Sys2Proof
end

