-- ==== Sys2Proof/Laws/Banks.lean ====
section
/-! SUPPORT. What bank changes leave in each slot (R16). -/

namespace Sys2Proof.Machine

theorem Bank.withdraw_slots (b : Bank) (i j : Slot) :
    rd (b.withdraw i).slots j = if j = i then none else rd b.slots j := by
  simp only [Bank.withdraw]
  cases h : rd b.slots i with
  | none =>
    dsimp only
    split
    · rename_i k
      rw [k, h]
    · rfl
  | some e => simp [rd_wr]

/-- Withdrawing every slot of a change list empties exactly those slots. -/
theorem Bank.withdrawAll_slots (cs : List StagedChange) (b : Bank) (j : Slot) :
    rd (cs.foldl (fun b ch => b.withdraw ch.slot) b).slots j =
      if ∃ x ∈ cs, x.slot = j then none else rd b.slots j := by
  induction cs generalizing b with
  | nil => simp
  | cons x t ih =>
    simp only [List.foldl_cons, ih, Bank.withdraw_slots]
    by_cases h1 : ∃ y ∈ t, y.slot = j
    · rw [if_pos h1, if_pos]
      obtain ⟨y, a, b⟩ := h1
      exact ⟨y, List.mem_cons_of_mem _ a, b⟩
    · rw [if_neg h1]
      by_cases h2 : j = x.slot
      · rw [if_pos h2, if_pos ⟨x, List.mem_cons_self .., h2.symm⟩]
      · rw [if_neg h2, if_neg]
        rintro ⟨y, a, b⟩
        rcases List.mem_cons.1 a with rfl | a
        · exact h2 b.symm
        · exact h1 ⟨y, a, b⟩

theorem Bank.write_slots (b : Bank) (x : StagedChange) (j : Slot) :
    rd (b.write x).slots j = if j = x.slot then x.change.entry else rd b.slots j := by
  simp only [Bank.write]
  cases h : x.change with
  | remove => simp only [Bank.withdraw_slots, Change.entry]
  | write e =>
    simp only [rd_wr, Bank.withdraw_slots, Change.entry]
    split <;> simp_all

theorem Bank.writeAll_untouched (cs : List StagedChange) (b : Bank) (j : Slot) (h : ∀ x ∈ cs, x.slot ≠ j) :
    rd (cs.foldl Bank.write b).slots j = rd b.slots j := by
  induction cs generalizing b with
  | nil => rfl
  | cons x t ih =>
    rw [List.foldl_cons, ih _ fun y hy => h y (List.mem_cons_of_mem _ hy), Bank.write_slots, if_neg]
    exact fun k => h x (List.mem_cons_self ..) k.symm

theorem Bank.writeAll_touched (cs : List StagedChange) (b : Bank) (x : StagedChange) (hx : x ∈ cs)
    (hn : (cs.map (·.slot)).Nodup) : rd (cs.foldl Bank.write b).slots x.slot = x.change.entry := by
  induction cs generalizing b with
  | nil => cases hx
  | cons y t ih =>
    simp only [List.map_cons, List.nodup_cons, List.mem_map, not_exists, not_and] at hn
    rcases List.mem_cons.1 hx with rfl | hx
    · rw [List.foldl_cons, Bank.writeAll_untouched t _ _ fun z hz => hn.1 z hz, Bank.write_slots, if_pos rfl]
    · exact ih _ hx hn.2

/-- A slot that no change names keeps its entry. -/
theorem Bank.applyChanges_untouched (b : Bank) (cs : List StagedChange) (j : Slot) (h : ∀ x ∈ cs, x.slot ≠ j) :
    rd (b.applyChanges cs).slots j = rd b.slots j := by
  rw [Bank.applyChanges, Bank.writeAll_untouched cs _ j h, Bank.withdrawAll_slots, if_neg]
  rintro ⟨x, hx, e⟩
  exact h x hx e

/-- A slot that a change names holds what the change leaves in it, when no two changes name one slot. -/
theorem Bank.applyChanges_touched (b : Bank) (cs : List StagedChange) (x : StagedChange) (hx : x ∈ cs)
    (hn : (cs.map (·.slot)).Nodup) : rd (b.applyChanges cs).slots x.slot = x.change.entry :=
  Bank.writeAll_touched cs _ x hx hn

end Sys2Proof.Machine
end

