-- ==== Sys2Proof/Laws/Commands.lean ====
section
/-! SUPPORT. The treatment of a consumer's command by token and sequence (R121 to R124), as equations on the state with the
command taken. -/

namespace Sys2Proof.Machine

/-- A reply is handed to the delivery port as its frame (R112, R116). -/
theorem State.placeReply_eq (s : State) (r : Reply) : s.placeReply r = s.sending (replyFrame r) := by
  have g : (decide (s.delivery.controlQueue.length < Config.controlPlaces) && s.delivery.replyWait.isEmpty) = true ↔
      s.delivery.replyWait = [] ∧ s.delivery.controlQueue.length < 8 := by
    rw [Bool.and_eq_true, decide_eq_true_eq, List.isEmpty_iff, and_comm]; rfl
  simp only [State.placeReply, State.sending]
  cases hl : s.delivery.linkUp
  · rfl
  · simp only [g, Bool.not_true, Bool.false_eq_true, Bool.true_eq_false, if_false]
    split_ifs <;> simp only [← hl]

/-- A waiting command of the row's kind is taken and treated (R121). -/
theorem State.onCommand_taken (s : State) (c : Command) (rest : List Command) (p : Command → Bool)
    (g : Command → State → State) (h : s.waiting c rest) (hp : p c = true) :
    s.onCommand p g = g c (s.inboxLeft rest) := by
  simp only [State.onCommand, h.1, h.2, hp, if_true]
  rfl

/-- The session whose next command waits (R123). -/
theorem State.nextInSession_session (s : State) (c : Command) (rest : List Command) (h : s.nextInSession c) :
    ∃ ss, s.session = some ss ∧ ss.token = c.token ∧ c.seq = ss.last + 1 ∧
      (s.inboxLeft rest).session.filter (fun ss => ss.token == c.token) = some ss := by
  cases hs : s.session with
  | none => simp [State.nextInSession, hs] at h
  | some ss =>
    simp only [State.nextInSession, hs, Option.any_some, Bool.and_eq_true, beq_iff_eq] at h
    exact ⟨ss, rfl, h.1, h.2, by simp [State.inboxLeft, hs, Option.filter, h.1]⟩

/-- A command that only answers, executed (R123, R128). -/
theorem executeSequenced_answer (b : Command → State → CommandEffect) (c : Command) (s t : State) (r : ResultCode)
    (d : List Byte) (h : b c s = answer t r d) :
    executeSequenced b c s = t.executed c r d := by
  simp only [executeSequenced, h, answer]
  rw [if_neg (by simp), State.placeReply_eq]
  rfl

/-- The next command of the session is executed (R123). -/
theorem treatCommand_next (cls : Bool) (b : Command → State → CommandEffect) (s : State) (c : Command)
    (rest : List Command) (h : s.nextInSession c) :
    treatCommand cls b c (s.inboxLeft rest) = executeSequenced b c (s.inboxLeft rest) := by
  obtain ⟨ss, h1, h2, h3, h4⟩ := s.nextInSession_session c rest h
  simp only [treatCommand, h4]
  rw [if_pos h3]

/-- No open session has a foreign token (R122). -/
theorem State.foreignToken_session (s : State) (c : Command) (rest : List Command) (h : s.foreignToken c) :
    (s.inboxLeft rest).session.filter (fun ss => ss.token == c.token) = none := by
  cases hs : s.session with
  | none => simp [State.inboxLeft, hs]
  | some ss =>
    simp [State.foreignToken, hs] at h
    simp [State.inboxLeft, hs, Option.filter, h]

/-- An open command under a foreign token is executed and answered, outside every session (R122). -/
theorem treatCommand_foreign_open (b : Command → State → CommandEffect) (s : State) (c : Command)
    (rest : List Command) (r : ResultCode) (d : List Byte) (h : s.foreignToken c)
    (hb : b c (s.inboxLeft rest) = answer (s.inboxLeft rest) r d) :
    treatCommand false b c (s.inboxLeft rest) = (s.inboxLeft rest).replied c r d := by
  simp only [treatCommand, s.foreignToken_session c rest h, hb, answer]
  rw [if_neg (by simp), State.placeReply_eq]
  rfl

/-- A session command under a foreign token is answered NO_SESSION (R122). -/
theorem treatCommand_foreign_session (b : Command → State → CommandEffect) (s : State) (c : Command)
    (rest : List Command) (h : s.foreignToken c) :
    treatCommand true b c (s.inboxLeft rest) = (s.inboxLeft rest).replied c .noSession [] := by
  simp only [treatCommand, s.foreignToken_session c rest h]
  rw [if_pos trivial, State.placeReply_eq]
  rfl

/-- A command that repeats the last sequence is answered from the cache (R123, R124). -/
theorem treatCommand_again (cls : Bool) (b : Command → State → CommandEffect) (s : State) (c : Command)
    (rest : List Command) (ss : Session) (hs : s.session = some ss) (ht : ss.token = c.token) (hq : c.seq = ss.last) :
    treatCommand cls b c (s.inboxLeft rest) = (s.inboxLeft rest).answerAgain c ss.cache := by
  have : (s.inboxLeft rest).session.filter (fun ss => ss.token == c.token) = some ss := by
    simp [State.inboxLeft, hs, Option.filter, ht]
  simp only [treatCommand, this]
  rw [if_neg, if_pos hq]
  intro k
  rw [hq] at k
  have := congrArg BitVec.toNat k
  rw [BitVec.toNat_add] at this
  simp at this
  omega

/-- A command of any other sequence is answered OUT_OF_ORDER (R123). -/
theorem treatCommand_outOfOrder (cls : Bool) (b : Command → State → CommandEffect) (s : State) (c : Command)
    (rest : List Command) (ss : Session) (hs : s.session = some ss) (ht : ss.token = c.token) (hq : c.seq ≠ ss.last)
    (hn : c.seq ≠ ss.last + 1) :
    treatCommand cls b c (s.inboxLeft rest) = (s.inboxLeft rest).replied c .outOfOrder [] := by
  have : (s.inboxLeft rest).session.filter (fun ss => ss.token == c.token) = some ss := by
    simp [State.inboxLeft, hs, Option.filter, ht]
  simp only [treatCommand, this]
  rw [if_neg hn, if_neg hq, State.placeReply_eq]
  rfl

/-- The staging list after the session is exchanged for one with the same staging list. -/
theorem State.stagingList_map (s : State) (g : Session → Session) (hg : ∀ x, (g x).staging = x.staging) :
    ({ s with session := s.session.map g } : State).stagingList = s.stagingList := by
  cases h : s.session <;> simp [State.stagingList, h, hg]

/-- The staging list after it is replaced: empty without a session. -/
theorem State.setStaging_stagingList (s : State) (l : List StagedChange) :
    (s.setStaging l).stagingList = if s.session.isSome then l else [] := by
  cases h : s.session <;> simp [State.stagingList, State.setStaging, h]

end Sys2Proof.Machine
end

