-- ==== Sys2Proof/Laws/State.lean ====
section
/-! SUPPORT. What each update of the state leaves in each field: one lemma per field per update, true by unfolding. -/

namespace Sys2Proof.Machine

/-! ### `State.raiseAll` -/

@[simp] theorem State.raiseAll_pending (s : State) (ns : List Notice) : (s.raiseAll ns).pending = s.pending := rfl
@[simp] theorem State.raiseAll_elapsed (s : State) (ns : List Notice) : (s.raiseAll ns).elapsed = s.elapsed := rfl
@[simp] theorem State.raiseAll_ports (s : State) (ns : List Notice) : (s.raiseAll ns).ports = s.ports := rfl
@[simp] theorem State.raiseAll_monitors (s : State) (ns : List Notice) : (s.raiseAll ns).monitors = s.monitors := rfl
@[simp] theorem State.raiseAll_feedEvents (s : State) (ns : List Notice) :
    (s.raiseAll ns).feedEvents = s.feedEvents := rfl
@[simp] theorem State.raiseAll_bankA (s : State) (ns : List Notice) : (s.raiseAll ns).bankA = s.bankA := rfl
@[simp] theorem State.raiseAll_bankB (s : State) (ns : List Notice) : (s.raiseAll ns).bankB = s.bankB := rfl
@[simp] theorem State.raiseAll_live (s : State) (ns : List Notice) : (s.raiseAll ns).live = s.live := rfl
@[simp] theorem State.raiseAll_generation (s : State) (ns : List Notice) :
    (s.raiseAll ns).generation = s.generation := rfl
@[simp] theorem State.raiseAll_engine (s : State) (ns : List Notice) : (s.raiseAll ns).engine = s.engine := rfl
@[simp] theorem State.raiseAll_runtimes (s : State) (ns : List Notice) : (s.raiseAll ns).runtimes = s.runtimes := rfl
@[simp] theorem State.raiseAll_pool (s : State) (ns : List Notice) : (s.raiseAll ns).pool = s.pool := rfl
@[simp] theorem State.raiseAll_dataQueue (s : State) (ns : List Notice) : (s.raiseAll ns).dataQueue = s.dataQueue := rfl
@[simp] theorem State.raiseAll_delivery (s : State) (ns : List Notice) : (s.raiseAll ns).delivery = s.delivery := rfl
@[simp] theorem State.raiseAll_inbox (s : State) (ns : List Notice) : (s.raiseAll ns).inbox = s.inbox := rfl
@[simp] theorem State.raiseAll_inboxOverflows (s : State) (ns : List Notice) :
    (s.raiseAll ns).inboxOverflows = s.inboxOverflows := rfl
@[simp] theorem State.raiseAll_session (s : State) (ns : List Notice) : (s.raiseAll ns).session = s.session := rfl
@[simp] theorem State.raiseAll_notices (s : State) (ns : List Notice) :
    (s.raiseAll ns).notices = { s.notices with raised := s.notices.raised ++ ns } := rfl
@[simp] theorem State.raiseAll_feedLatches (s : State) (ns : List Notice) :
    (s.raiseAll ns).feedLatches = s.feedLatches := rfl
@[simp] theorem State.raiseAll_streamLatches (s : State) (ns : List Notice) :
    (s.raiseAll ns).streamLatches = s.streamLatches := rfl

/-! ### `State.raise` -/

@[simp] theorem State.raise_pending (s : State) (n : Notice) : (s.raise n).pending = s.pending := rfl
@[simp] theorem State.raise_elapsed (s : State) (n : Notice) : (s.raise n).elapsed = s.elapsed := rfl
@[simp] theorem State.raise_ports (s : State) (n : Notice) : (s.raise n).ports = s.ports := rfl
@[simp] theorem State.raise_monitors (s : State) (n : Notice) : (s.raise n).monitors = s.monitors := rfl
@[simp] theorem State.raise_feedEvents (s : State) (n : Notice) : (s.raise n).feedEvents = s.feedEvents := rfl
@[simp] theorem State.raise_bankA (s : State) (n : Notice) : (s.raise n).bankA = s.bankA := rfl
@[simp] theorem State.raise_bankB (s : State) (n : Notice) : (s.raise n).bankB = s.bankB := rfl
@[simp] theorem State.raise_live (s : State) (n : Notice) : (s.raise n).live = s.live := rfl
@[simp] theorem State.raise_generation (s : State) (n : Notice) : (s.raise n).generation = s.generation := rfl
@[simp] theorem State.raise_engine (s : State) (n : Notice) : (s.raise n).engine = s.engine := rfl
@[simp] theorem State.raise_runtimes (s : State) (n : Notice) : (s.raise n).runtimes = s.runtimes := rfl
@[simp] theorem State.raise_pool (s : State) (n : Notice) : (s.raise n).pool = s.pool := rfl
@[simp] theorem State.raise_dataQueue (s : State) (n : Notice) : (s.raise n).dataQueue = s.dataQueue := rfl
@[simp] theorem State.raise_delivery (s : State) (n : Notice) : (s.raise n).delivery = s.delivery := rfl
@[simp] theorem State.raise_inbox (s : State) (n : Notice) : (s.raise n).inbox = s.inbox := rfl
@[simp] theorem State.raise_inboxOverflows (s : State) (n : Notice) :
    (s.raise n).inboxOverflows = s.inboxOverflows := rfl
@[simp] theorem State.raise_session (s : State) (n : Notice) : (s.raise n).session = s.session := rfl
@[simp] theorem State.raise_notices (s : State) (n : Notice) :
    (s.raise n).notices = { s.notices with raised := s.notices.raised ++ [n] } := rfl
@[simp] theorem State.raise_feedLatches (s : State) (n : Notice) : (s.raise n).feedLatches = s.feedLatches := rfl
@[simp] theorem State.raise_streamLatches (s : State) (n : Notice) : (s.raise n).streamLatches = s.streamLatches := rfl

/-! ### `State.setFeedLatch` -/

@[simp] theorem State.setFeedLatch_pending (s : State) (f : Feed) : (s.setFeedLatch f).pending = s.pending := rfl
@[simp] theorem State.setFeedLatch_elapsed (s : State) (f : Feed) : (s.setFeedLatch f).elapsed = s.elapsed := rfl
@[simp] theorem State.setFeedLatch_ports (s : State) (f : Feed) : (s.setFeedLatch f).ports = s.ports := rfl
@[simp] theorem State.setFeedLatch_monitors (s : State) (f : Feed) : (s.setFeedLatch f).monitors = s.monitors := rfl
@[simp] theorem State.setFeedLatch_feedEvents (s : State) (f : Feed) :
    (s.setFeedLatch f).feedEvents = s.feedEvents := rfl
@[simp] theorem State.setFeedLatch_bankA (s : State) (f : Feed) : (s.setFeedLatch f).bankA = s.bankA := rfl
@[simp] theorem State.setFeedLatch_bankB (s : State) (f : Feed) : (s.setFeedLatch f).bankB = s.bankB := rfl
@[simp] theorem State.setFeedLatch_live (s : State) (f : Feed) : (s.setFeedLatch f).live = s.live := rfl
@[simp] theorem State.setFeedLatch_generation (s : State) (f : Feed) :
    (s.setFeedLatch f).generation = s.generation := rfl
@[simp] theorem State.setFeedLatch_engine (s : State) (f : Feed) : (s.setFeedLatch f).engine = s.engine := rfl
@[simp] theorem State.setFeedLatch_runtimes (s : State) (f : Feed) : (s.setFeedLatch f).runtimes = s.runtimes := rfl
@[simp] theorem State.setFeedLatch_pool (s : State) (f : Feed) : (s.setFeedLatch f).pool = s.pool := rfl
@[simp] theorem State.setFeedLatch_dataQueue (s : State) (f : Feed) : (s.setFeedLatch f).dataQueue = s.dataQueue := rfl
@[simp] theorem State.setFeedLatch_delivery (s : State) (f : Feed) : (s.setFeedLatch f).delivery = s.delivery := rfl
@[simp] theorem State.setFeedLatch_inbox (s : State) (f : Feed) : (s.setFeedLatch f).inbox = s.inbox := rfl
@[simp] theorem State.setFeedLatch_inboxOverflows (s : State) (f : Feed) :
    (s.setFeedLatch f).inboxOverflows = s.inboxOverflows := rfl
@[simp] theorem State.setFeedLatch_session (s : State) (f : Feed) : (s.setFeedLatch f).session = s.session := rfl
@[simp] theorem State.setFeedLatch_notices (s : State) (f : Feed) : (s.setFeedLatch f).notices = s.notices := rfl
@[simp] theorem State.setFeedLatch_feedLatches (s : State) (f : Feed) :
    (s.setFeedLatch f).feedLatches = wr s.feedLatches f true := rfl
@[simp] theorem State.setFeedLatch_streamLatches (s : State) (f : Feed) :
    (s.setFeedLatch f).streamLatches = s.streamLatches := rfl

/-! ### `State.setMonitor` -/

@[simp] theorem State.setMonitor_pending (s : State) (f : Feed) (m : Monitor) :
    (s.setMonitor f m).pending = s.pending := rfl
@[simp] theorem State.setMonitor_elapsed (s : State) (f : Feed) (m : Monitor) :
    (s.setMonitor f m).elapsed = s.elapsed := rfl
@[simp] theorem State.setMonitor_ports (s : State) (f : Feed) (m : Monitor) : (s.setMonitor f m).ports = s.ports := rfl
@[simp] theorem State.setMonitor_monitors (s : State) (f : Feed) (m : Monitor) :
    (s.setMonitor f m).monitors = wr s.monitors f m := rfl
@[simp] theorem State.setMonitor_feedEvents (s : State) (f : Feed) (m : Monitor) :
    (s.setMonitor f m).feedEvents = s.feedEvents := rfl
@[simp] theorem State.setMonitor_bankA (s : State) (f : Feed) (m : Monitor) : (s.setMonitor f m).bankA = s.bankA := rfl
@[simp] theorem State.setMonitor_bankB (s : State) (f : Feed) (m : Monitor) : (s.setMonitor f m).bankB = s.bankB := rfl
@[simp] theorem State.setMonitor_live (s : State) (f : Feed) (m : Monitor) : (s.setMonitor f m).live = s.live := rfl
@[simp] theorem State.setMonitor_generation (s : State) (f : Feed) (m : Monitor) :
    (s.setMonitor f m).generation = s.generation := rfl
@[simp] theorem State.setMonitor_engine (s : State) (f : Feed) (m : Monitor) :
    (s.setMonitor f m).engine = s.engine := rfl
@[simp] theorem State.setMonitor_runtimes (s : State) (f : Feed) (m : Monitor) :
    (s.setMonitor f m).runtimes = s.runtimes := rfl
@[simp] theorem State.setMonitor_pool (s : State) (f : Feed) (m : Monitor) : (s.setMonitor f m).pool = s.pool := rfl
@[simp] theorem State.setMonitor_dataQueue (s : State) (f : Feed) (m : Monitor) :
    (s.setMonitor f m).dataQueue = s.dataQueue := rfl
@[simp] theorem State.setMonitor_delivery (s : State) (f : Feed) (m : Monitor) :
    (s.setMonitor f m).delivery = s.delivery := rfl
@[simp] theorem State.setMonitor_inbox (s : State) (f : Feed) (m : Monitor) : (s.setMonitor f m).inbox = s.inbox := rfl
@[simp] theorem State.setMonitor_inboxOverflows (s : State) (f : Feed) (m : Monitor) :
    (s.setMonitor f m).inboxOverflows = s.inboxOverflows := rfl
@[simp] theorem State.setMonitor_session (s : State) (f : Feed) (m : Monitor) :
    (s.setMonitor f m).session = s.session := rfl
@[simp] theorem State.setMonitor_notices (s : State) (f : Feed) (m : Monitor) :
    (s.setMonitor f m).notices = s.notices := rfl
@[simp] theorem State.setMonitor_feedLatches (s : State) (f : Feed) (m : Monitor) :
    (s.setMonitor f m).feedLatches = s.feedLatches := rfl
@[simp] theorem State.setMonitor_streamLatches (s : State) (f : Feed) (m : Monitor) :
    (s.setMonitor f m).streamLatches = s.streamLatches := rfl

/-! ### `State.setPort` -/

@[simp] theorem State.setPort_pending (s : State) (f : Feed) (p : Port) : (s.setPort f p).pending = s.pending := rfl
@[simp] theorem State.setPort_elapsed (s : State) (f : Feed) (p : Port) : (s.setPort f p).elapsed = s.elapsed := rfl
@[simp] theorem State.setPort_ports (s : State) (f : Feed) (p : Port) : (s.setPort f p).ports = wr s.ports f p := rfl
@[simp] theorem State.setPort_monitors (s : State) (f : Feed) (p : Port) : (s.setPort f p).monitors = s.monitors := rfl
@[simp] theorem State.setPort_feedEvents (s : State) (f : Feed) (p : Port) :
    (s.setPort f p).feedEvents = s.feedEvents := rfl
@[simp] theorem State.setPort_bankA (s : State) (f : Feed) (p : Port) : (s.setPort f p).bankA = s.bankA := rfl
@[simp] theorem State.setPort_bankB (s : State) (f : Feed) (p : Port) : (s.setPort f p).bankB = s.bankB := rfl
@[simp] theorem State.setPort_live (s : State) (f : Feed) (p : Port) : (s.setPort f p).live = s.live := rfl
@[simp] theorem State.setPort_generation (s : State) (f : Feed) (p : Port) :
    (s.setPort f p).generation = s.generation := rfl
@[simp] theorem State.setPort_engine (s : State) (f : Feed) (p : Port) : (s.setPort f p).engine = s.engine := rfl
@[simp] theorem State.setPort_runtimes (s : State) (f : Feed) (p : Port) : (s.setPort f p).runtimes = s.runtimes := rfl
@[simp] theorem State.setPort_pool (s : State) (f : Feed) (p : Port) : (s.setPort f p).pool = s.pool := rfl
@[simp] theorem State.setPort_dataQueue (s : State) (f : Feed) (p : Port) :
    (s.setPort f p).dataQueue = s.dataQueue := rfl
@[simp] theorem State.setPort_delivery (s : State) (f : Feed) (p : Port) : (s.setPort f p).delivery = s.delivery := rfl
@[simp] theorem State.setPort_inbox (s : State) (f : Feed) (p : Port) : (s.setPort f p).inbox = s.inbox := rfl
@[simp] theorem State.setPort_inboxOverflows (s : State) (f : Feed) (p : Port) :
    (s.setPort f p).inboxOverflows = s.inboxOverflows := rfl
@[simp] theorem State.setPort_session (s : State) (f : Feed) (p : Port) : (s.setPort f p).session = s.session := rfl
@[simp] theorem State.setPort_notices (s : State) (f : Feed) (p : Port) : (s.setPort f p).notices = s.notices := rfl
@[simp] theorem State.setPort_feedLatches (s : State) (f : Feed) (p : Port) :
    (s.setPort f p).feedLatches = s.feedLatches := rfl
@[simp] theorem State.setPort_streamLatches (s : State) (f : Feed) (p : Port) :
    (s.setPort f p).streamLatches = s.streamLatches := rfl

/-! ### `State.setRuntime` -/

@[simp] theorem State.setRuntime_pending (s : State) (i : Slot) (r : Runtime) :
    (s.setRuntime i r).pending = s.pending := rfl
@[simp] theorem State.setRuntime_elapsed (s : State) (i : Slot) (r : Runtime) :
    (s.setRuntime i r).elapsed = s.elapsed := rfl
@[simp] theorem State.setRuntime_ports (s : State) (i : Slot) (r : Runtime) : (s.setRuntime i r).ports = s.ports := rfl
@[simp] theorem State.setRuntime_monitors (s : State) (i : Slot) (r : Runtime) :
    (s.setRuntime i r).monitors = s.monitors := rfl
@[simp] theorem State.setRuntime_feedEvents (s : State) (i : Slot) (r : Runtime) :
    (s.setRuntime i r).feedEvents = s.feedEvents := rfl
@[simp] theorem State.setRuntime_bankA (s : State) (i : Slot) (r : Runtime) : (s.setRuntime i r).bankA = s.bankA := rfl
@[simp] theorem State.setRuntime_bankB (s : State) (i : Slot) (r : Runtime) : (s.setRuntime i r).bankB = s.bankB := rfl
@[simp] theorem State.setRuntime_live (s : State) (i : Slot) (r : Runtime) : (s.setRuntime i r).live = s.live := rfl
@[simp] theorem State.setRuntime_generation (s : State) (i : Slot) (r : Runtime) :
    (s.setRuntime i r).generation = s.generation := rfl
@[simp] theorem State.setRuntime_engine (s : State) (i : Slot) (r : Runtime) :
    (s.setRuntime i r).engine = s.engine := rfl
@[simp] theorem State.setRuntime_runtimes (s : State) (i : Slot) (r : Runtime) :
    (s.setRuntime i r).runtimes = wr s.runtimes i r := rfl
@[simp] theorem State.setRuntime_pool (s : State) (i : Slot) (r : Runtime) : (s.setRuntime i r).pool = s.pool := rfl
@[simp] theorem State.setRuntime_dataQueue (s : State) (i : Slot) (r : Runtime) :
    (s.setRuntime i r).dataQueue = s.dataQueue := rfl
@[simp] theorem State.setRuntime_delivery (s : State) (i : Slot) (r : Runtime) :
    (s.setRuntime i r).delivery = s.delivery := rfl
@[simp] theorem State.setRuntime_inbox (s : State) (i : Slot) (r : Runtime) : (s.setRuntime i r).inbox = s.inbox := rfl
@[simp] theorem State.setRuntime_inboxOverflows (s : State) (i : Slot) (r : Runtime) :
    (s.setRuntime i r).inboxOverflows = s.inboxOverflows := rfl
@[simp] theorem State.setRuntime_session (s : State) (i : Slot) (r : Runtime) :
    (s.setRuntime i r).session = s.session := rfl
@[simp] theorem State.setRuntime_notices (s : State) (i : Slot) (r : Runtime) :
    (s.setRuntime i r).notices = s.notices := rfl
@[simp] theorem State.setRuntime_feedLatches (s : State) (i : Slot) (r : Runtime) :
    (s.setRuntime i r).feedLatches = s.feedLatches := rfl
@[simp] theorem State.setRuntime_streamLatches (s : State) (i : Slot) (r : Runtime) :
    (s.setRuntime i r).streamLatches = s.streamLatches := rfl

/-! ### `State.countFeed` -/

@[simp] theorem State.countFeed_pending (s : State) (f : Feed) (g : FeedCounters → FeedCounters) :
    (s.countFeed f g).pending = s.pending := rfl
@[simp] theorem State.countFeed_elapsed (s : State) (f : Feed) (g : FeedCounters → FeedCounters) :
    (s.countFeed f g).elapsed = s.elapsed := rfl
@[simp] theorem State.countFeed_ports (s : State) (f : Feed) (g : FeedCounters → FeedCounters) :
    (s.countFeed f g).ports = s.ports := rfl
@[simp] theorem State.countFeed_monitors (s : State) (f : Feed) (g : FeedCounters → FeedCounters) :
    (s.countFeed f g).monitors =
      wr s.monitors f { rd s.monitors f with counters := g (rd s.monitors f).counters } := rfl
@[simp] theorem State.countFeed_feedEvents (s : State) (f : Feed) (g : FeedCounters → FeedCounters) :
    (s.countFeed f g).feedEvents = s.feedEvents := rfl
@[simp] theorem State.countFeed_bankA (s : State) (f : Feed) (g : FeedCounters → FeedCounters) :
    (s.countFeed f g).bankA = s.bankA := rfl
@[simp] theorem State.countFeed_bankB (s : State) (f : Feed) (g : FeedCounters → FeedCounters) :
    (s.countFeed f g).bankB = s.bankB := rfl
@[simp] theorem State.countFeed_live (s : State) (f : Feed) (g : FeedCounters → FeedCounters) :
    (s.countFeed f g).live = s.live := rfl
@[simp] theorem State.countFeed_generation (s : State) (f : Feed) (g : FeedCounters → FeedCounters) :
    (s.countFeed f g).generation = s.generation := rfl
@[simp] theorem State.countFeed_engine (s : State) (f : Feed) (g : FeedCounters → FeedCounters) :
    (s.countFeed f g).engine = s.engine := rfl
@[simp] theorem State.countFeed_runtimes (s : State) (f : Feed) (g : FeedCounters → FeedCounters) :
    (s.countFeed f g).runtimes = s.runtimes := rfl
@[simp] theorem State.countFeed_pool (s : State) (f : Feed) (g : FeedCounters → FeedCounters) :
    (s.countFeed f g).pool = s.pool := rfl
@[simp] theorem State.countFeed_dataQueue (s : State) (f : Feed) (g : FeedCounters → FeedCounters) :
    (s.countFeed f g).dataQueue = s.dataQueue := rfl
@[simp] theorem State.countFeed_delivery (s : State) (f : Feed) (g : FeedCounters → FeedCounters) :
    (s.countFeed f g).delivery = s.delivery := rfl
@[simp] theorem State.countFeed_inbox (s : State) (f : Feed) (g : FeedCounters → FeedCounters) :
    (s.countFeed f g).inbox = s.inbox := rfl
@[simp] theorem State.countFeed_inboxOverflows (s : State) (f : Feed) (g : FeedCounters → FeedCounters) :
    (s.countFeed f g).inboxOverflows = s.inboxOverflows := rfl
@[simp] theorem State.countFeed_session (s : State) (f : Feed) (g : FeedCounters → FeedCounters) :
    (s.countFeed f g).session = s.session := rfl
@[simp] theorem State.countFeed_notices (s : State) (f : Feed) (g : FeedCounters → FeedCounters) :
    (s.countFeed f g).notices = s.notices := rfl
@[simp] theorem State.countFeed_feedLatches (s : State) (f : Feed) (g : FeedCounters → FeedCounters) :
    (s.countFeed f g).feedLatches = s.feedLatches := rfl
@[simp] theorem State.countFeed_streamLatches (s : State) (f : Feed) (g : FeedCounters → FeedCounters) :
    (s.countFeed f g).streamLatches = s.streamLatches := rfl

/-! ### `State.putStream` -/

@[simp] theorem State.putStream_pending (s : State) (i : Slot) (v : StreamView) :
    (s.putStream i v).pending = s.pending := rfl
@[simp] theorem State.putStream_elapsed (s : State) (i : Slot) (v : StreamView) :
    (s.putStream i v).elapsed = s.elapsed := rfl
@[simp] theorem State.putStream_ports (s : State) (i : Slot) (v : StreamView) : (s.putStream i v).ports = s.ports := rfl
@[simp] theorem State.putStream_monitors (s : State) (i : Slot) (v : StreamView) :
    (s.putStream i v).monitors = s.monitors := rfl
@[simp] theorem State.putStream_feedEvents (s : State) (i : Slot) (v : StreamView) :
    (s.putStream i v).feedEvents = s.feedEvents := rfl
@[simp] theorem State.putStream_bankA (s : State) (i : Slot) (v : StreamView) : (s.putStream i v).bankA = s.bankA := rfl
@[simp] theorem State.putStream_bankB (s : State) (i : Slot) (v : StreamView) : (s.putStream i v).bankB = s.bankB := rfl
@[simp] theorem State.putStream_live (s : State) (i : Slot) (v : StreamView) : (s.putStream i v).live = s.live := rfl
@[simp] theorem State.putStream_generation (s : State) (i : Slot) (v : StreamView) :
    (s.putStream i v).generation = s.generation := rfl
@[simp] theorem State.putStream_engine (s : State) (i : Slot) (v : StreamView) :
    (s.putStream i v).engine = s.engine := rfl
@[simp] theorem State.putStream_runtimes (s : State) (i : Slot) (v : StreamView) :
    (s.putStream i v).runtimes = wr s.runtimes i v.rt := rfl
@[simp] theorem State.putStream_pool (s : State) (i : Slot) (v : StreamView) : (s.putStream i v).pool = v.pool := rfl
@[simp] theorem State.putStream_dataQueue (s : State) (i : Slot) (v : StreamView) :
    (s.putStream i v).dataQueue = v.dataQueue := rfl
@[simp] theorem State.putStream_delivery (s : State) (i : Slot) (v : StreamView) :
    (s.putStream i v).delivery = s.delivery := rfl
@[simp] theorem State.putStream_inbox (s : State) (i : Slot) (v : StreamView) : (s.putStream i v).inbox = s.inbox := rfl
@[simp] theorem State.putStream_inboxOverflows (s : State) (i : Slot) (v : StreamView) :
    (s.putStream i v).inboxOverflows = s.inboxOverflows := rfl
@[simp] theorem State.putStream_session (s : State) (i : Slot) (v : StreamView) :
    (s.putStream i v).session = s.session := rfl
@[simp] theorem State.putStream_notices (s : State) (i : Slot) (v : StreamView) :
    (s.putStream i v).notices = { s.notices with raised := v.raised } := rfl
@[simp] theorem State.putStream_feedLatches (s : State) (i : Slot) (v : StreamView) :
    (s.putStream i v).feedLatches = s.feedLatches := rfl
@[simp] theorem State.putStream_streamLatches (s : State) (i : Slot) (v : StreamView) :
    (s.putStream i v).streamLatches = wr s.streamLatches i v.latch := rfl

/-! ### `State.closeSession` -/

@[simp] theorem State.closeSession_pending (s : State) : s.closeSession.pending = s.pending := rfl
@[simp] theorem State.closeSession_elapsed (s : State) : s.closeSession.elapsed = s.elapsed := rfl
@[simp] theorem State.closeSession_ports (s : State) : s.closeSession.ports = s.ports := rfl
@[simp] theorem State.closeSession_monitors (s : State) : s.closeSession.monitors = s.monitors := rfl
@[simp] theorem State.closeSession_feedEvents (s : State) : s.closeSession.feedEvents = s.feedEvents := rfl
@[simp] theorem State.closeSession_bankA (s : State) : s.closeSession.bankA = s.bankA := rfl
@[simp] theorem State.closeSession_bankB (s : State) : s.closeSession.bankB = s.bankB := rfl
@[simp] theorem State.closeSession_live (s : State) : s.closeSession.live = s.live := rfl
@[simp] theorem State.closeSession_generation (s : State) : s.closeSession.generation = s.generation := rfl
@[simp] theorem State.closeSession_engine (s : State) : s.closeSession.engine = s.engine := rfl
@[simp] theorem State.closeSession_runtimes (s : State) : s.closeSession.runtimes = s.runtimes := rfl
@[simp] theorem State.closeSession_pool (s : State) : s.closeSession.pool = s.pool := rfl
@[simp] theorem State.closeSession_dataQueue (s : State) : s.closeSession.dataQueue = s.dataQueue := rfl
@[simp] theorem State.closeSession_delivery (s : State) : s.closeSession.delivery = s.delivery := rfl
@[simp] theorem State.closeSession_inbox (s : State) : s.closeSession.inbox = s.inbox := rfl
@[simp] theorem State.closeSession_inboxOverflows (s : State) : s.closeSession.inboxOverflows = s.inboxOverflows := rfl
@[simp] theorem State.closeSession_session (s : State) : s.closeSession.session = none := rfl
@[simp] theorem State.closeSession_notices (s : State) : s.closeSession.notices = s.notices := rfl
@[simp] theorem State.closeSession_feedLatches (s : State) : s.closeSession.feedLatches = s.feedLatches := rfl
@[simp] theorem State.closeSession_streamLatches (s : State) : s.closeSession.streamLatches = s.streamLatches := rfl

/-! ### `State.setStaging` -/

@[simp] theorem State.setStaging_pending (s : State) (l : List StagedChange) :
    (s.setStaging l).pending = s.pending := rfl
@[simp] theorem State.setStaging_elapsed (s : State) (l : List StagedChange) :
    (s.setStaging l).elapsed = s.elapsed := rfl
@[simp] theorem State.setStaging_ports (s : State) (l : List StagedChange) : (s.setStaging l).ports = s.ports := rfl
@[simp] theorem State.setStaging_monitors (s : State) (l : List StagedChange) :
    (s.setStaging l).monitors = s.monitors := rfl
@[simp] theorem State.setStaging_feedEvents (s : State) (l : List StagedChange) :
    (s.setStaging l).feedEvents = s.feedEvents := rfl
@[simp] theorem State.setStaging_bankA (s : State) (l : List StagedChange) : (s.setStaging l).bankA = s.bankA := rfl
@[simp] theorem State.setStaging_bankB (s : State) (l : List StagedChange) : (s.setStaging l).bankB = s.bankB := rfl
@[simp] theorem State.setStaging_live (s : State) (l : List StagedChange) : (s.setStaging l).live = s.live := rfl
@[simp] theorem State.setStaging_generation (s : State) (l : List StagedChange) :
    (s.setStaging l).generation = s.generation := rfl
@[simp] theorem State.setStaging_engine (s : State) (l : List StagedChange) : (s.setStaging l).engine = s.engine := rfl
@[simp] theorem State.setStaging_runtimes (s : State) (l : List StagedChange) :
    (s.setStaging l).runtimes = s.runtimes := rfl
@[simp] theorem State.setStaging_pool (s : State) (l : List StagedChange) : (s.setStaging l).pool = s.pool := rfl
@[simp] theorem State.setStaging_dataQueue (s : State) (l : List StagedChange) :
    (s.setStaging l).dataQueue = s.dataQueue := rfl
@[simp] theorem State.setStaging_delivery (s : State) (l : List StagedChange) :
    (s.setStaging l).delivery = s.delivery := rfl
@[simp] theorem State.setStaging_inbox (s : State) (l : List StagedChange) : (s.setStaging l).inbox = s.inbox := rfl
@[simp] theorem State.setStaging_inboxOverflows (s : State) (l : List StagedChange) :
    (s.setStaging l).inboxOverflows = s.inboxOverflows := rfl
@[simp] theorem State.setStaging_session (s : State) (l : List StagedChange) :
    (s.setStaging l).session = s.session.map fun ss => { ss with staging := l } := rfl
@[simp] theorem State.setStaging_notices (s : State) (l : List StagedChange) :
    (s.setStaging l).notices = s.notices := rfl
@[simp] theorem State.setStaging_feedLatches (s : State) (l : List StagedChange) :
    (s.setStaging l).feedLatches = s.feedLatches := rfl
@[simp] theorem State.setStaging_streamLatches (s : State) (l : List StagedChange) :
    (s.setStaging l).streamLatches = s.streamLatches := rfl

/-! ### `State.restartIdle` -/

@[simp] theorem State.restartIdle_pending (s : State) : s.restartIdle.pending = s.pending := rfl
@[simp] theorem State.restartIdle_elapsed (s : State) : s.restartIdle.elapsed = s.elapsed := rfl
@[simp] theorem State.restartIdle_ports (s : State) : s.restartIdle.ports = s.ports := rfl
@[simp] theorem State.restartIdle_monitors (s : State) : s.restartIdle.monitors = s.monitors := rfl
@[simp] theorem State.restartIdle_feedEvents (s : State) : s.restartIdle.feedEvents = s.feedEvents := rfl
@[simp] theorem State.restartIdle_bankA (s : State) : s.restartIdle.bankA = s.bankA := rfl
@[simp] theorem State.restartIdle_bankB (s : State) : s.restartIdle.bankB = s.bankB := rfl
@[simp] theorem State.restartIdle_live (s : State) : s.restartIdle.live = s.live := rfl
@[simp] theorem State.restartIdle_generation (s : State) : s.restartIdle.generation = s.generation := rfl
@[simp] theorem State.restartIdle_engine (s : State) : s.restartIdle.engine = s.engine := rfl
@[simp] theorem State.restartIdle_runtimes (s : State) : s.restartIdle.runtimes = s.runtimes := rfl
@[simp] theorem State.restartIdle_pool (s : State) : s.restartIdle.pool = s.pool := rfl
@[simp] theorem State.restartIdle_dataQueue (s : State) : s.restartIdle.dataQueue = s.dataQueue := rfl
@[simp] theorem State.restartIdle_delivery (s : State) : s.restartIdle.delivery = s.delivery := rfl
@[simp] theorem State.restartIdle_inbox (s : State) : s.restartIdle.inbox = s.inbox := rfl
@[simp] theorem State.restartIdle_inboxOverflows (s : State) : s.restartIdle.inboxOverflows = s.inboxOverflows := rfl
@[simp] theorem State.restartIdle_session (s : State) :
    s.restartIdle.session = s.session.map fun ss => { ss with idleExpiry := s.idleStart ss.idleTimeout } := rfl
@[simp] theorem State.restartIdle_notices (s : State) : s.restartIdle.notices = s.notices := rfl
@[simp] theorem State.restartIdle_feedLatches (s : State) : s.restartIdle.feedLatches = s.feedLatches := rfl
@[simp] theorem State.restartIdle_streamLatches (s : State) : s.restartIdle.streamLatches = s.streamLatches := rfl

/-! ### `State.recordExecuted` -/

@[simp] theorem State.recordExecuted_pending (s : State) (q : Byte) (c : Cache) :
    (s.recordExecuted q c).pending = s.pending := rfl
@[simp] theorem State.recordExecuted_elapsed (s : State) (q : Byte) (c : Cache) :
    (s.recordExecuted q c).elapsed = s.elapsed := rfl
@[simp] theorem State.recordExecuted_ports (s : State) (q : Byte) (c : Cache) :
    (s.recordExecuted q c).ports = s.ports := rfl
@[simp] theorem State.recordExecuted_monitors (s : State) (q : Byte) (c : Cache) :
    (s.recordExecuted q c).monitors = s.monitors := rfl
@[simp] theorem State.recordExecuted_feedEvents (s : State) (q : Byte) (c : Cache) :
    (s.recordExecuted q c).feedEvents = s.feedEvents := rfl
@[simp] theorem State.recordExecuted_bankA (s : State) (q : Byte) (c : Cache) :
    (s.recordExecuted q c).bankA = s.bankA := rfl
@[simp] theorem State.recordExecuted_bankB (s : State) (q : Byte) (c : Cache) :
    (s.recordExecuted q c).bankB = s.bankB := rfl
@[simp] theorem State.recordExecuted_live (s : State) (q : Byte) (c : Cache) :
    (s.recordExecuted q c).live = s.live := rfl
@[simp] theorem State.recordExecuted_generation (s : State) (q : Byte) (c : Cache) :
    (s.recordExecuted q c).generation = s.generation := rfl
@[simp] theorem State.recordExecuted_engine (s : State) (q : Byte) (c : Cache) :
    (s.recordExecuted q c).engine = s.engine := rfl
@[simp] theorem State.recordExecuted_runtimes (s : State) (q : Byte) (c : Cache) :
    (s.recordExecuted q c).runtimes = s.runtimes := rfl
@[simp] theorem State.recordExecuted_pool (s : State) (q : Byte) (c : Cache) :
    (s.recordExecuted q c).pool = s.pool := rfl
@[simp] theorem State.recordExecuted_dataQueue (s : State) (q : Byte) (c : Cache) :
    (s.recordExecuted q c).dataQueue = s.dataQueue := rfl
@[simp] theorem State.recordExecuted_delivery (s : State) (q : Byte) (c : Cache) :
    (s.recordExecuted q c).delivery = s.delivery := rfl
@[simp] theorem State.recordExecuted_inbox (s : State) (q : Byte) (c : Cache) :
    (s.recordExecuted q c).inbox = s.inbox := rfl
@[simp] theorem State.recordExecuted_inboxOverflows (s : State) (q : Byte) (c : Cache) :
    (s.recordExecuted q c).inboxOverflows = s.inboxOverflows := rfl
@[simp] theorem State.recordExecuted_session (s : State) (q : Byte) (c : Cache) :
    (s.recordExecuted q c).session =
      s.session.map fun ss => { ss with last := q, cache := c, idleExpiry := s.idleStart ss.idleTimeout } := rfl
@[simp] theorem State.recordExecuted_notices (s : State) (q : Byte) (c : Cache) :
    (s.recordExecuted q c).notices = s.notices := rfl
@[simp] theorem State.recordExecuted_feedLatches (s : State) (q : Byte) (c : Cache) :
    (s.recordExecuted q c).feedLatches = s.feedLatches := rfl
@[simp] theorem State.recordExecuted_streamLatches (s : State) (q : Byte) (c : Cache) :
    (s.recordExecuted q c).streamLatches = s.streamLatches := rfl

/-! ### `State.tick` -/

@[simp] theorem State.tick_pending (s : State) : s.tick.pending = s.pending := rfl
@[simp] theorem State.tick_elapsed (s : State) : s.tick.elapsed = s.elapsed + 1 := rfl
@[simp] theorem State.tick_ports (s : State) : s.tick.ports = s.ports := rfl
@[simp] theorem State.tick_monitors (s : State) : s.tick.monitors = s.monitors := rfl
@[simp] theorem State.tick_feedEvents (s : State) : s.tick.feedEvents = s.feedEvents := rfl
@[simp] theorem State.tick_bankA (s : State) : s.tick.bankA = s.bankA := rfl
@[simp] theorem State.tick_bankB (s : State) : s.tick.bankB = s.bankB := rfl
@[simp] theorem State.tick_live (s : State) : s.tick.live = s.live := rfl
@[simp] theorem State.tick_generation (s : State) : s.tick.generation = s.generation := rfl
@[simp] theorem State.tick_engine (s : State) : s.tick.engine = s.engine := rfl
@[simp] theorem State.tick_runtimes (s : State) : s.tick.runtimes = s.runtimes := rfl
@[simp] theorem State.tick_pool (s : State) : s.tick.pool = s.pool := rfl
@[simp] theorem State.tick_dataQueue (s : State) : s.tick.dataQueue = s.dataQueue := rfl
@[simp] theorem State.tick_delivery (s : State) : s.tick.delivery = s.delivery := rfl
@[simp] theorem State.tick_inbox (s : State) : s.tick.inbox = s.inbox := rfl
@[simp] theorem State.tick_inboxOverflows (s : State) : s.tick.inboxOverflows = s.inboxOverflows := rfl
@[simp] theorem State.tick_session (s : State) : s.tick.session = s.session := rfl
@[simp] theorem State.tick_notices (s : State) : s.tick.notices = s.notices := rfl
@[simp] theorem State.tick_feedLatches (s : State) : s.tick.feedLatches = s.feedLatches := rfl
@[simp] theorem State.tick_streamLatches (s : State) : s.tick.streamLatches = s.streamLatches := rfl

/-! ### Part time, record tags and latch counts -/

/-- Part time is a function of the moment alone (R2). -/
theorem State.partTime_eq (s : State) : s.partTime = BitVec.ofNat 32 s.elapsed := rfl

/-- One microsecond later part time is one more, and wraps (R2). -/
theorem State.partTime_tick (s : State) : s.tick.partTime = s.partTime + 1 := by
  simp only [State.partTime, partTimeOf, State.tick, BitVec.ofNat_add]; rfl

/-- The tag of a record is the live entry's, where the slot holds one (R106, R158). -/
theorem State.recordTag_live (s : State) (n : Notice) (i : Slot) (e : Entry) (h : n.subject = .stream i)
    (he : s.liveEntry i = some e) : s.recordTag n = e.tag := by
  simp only [State.recordTag, h, he]; rfl

/-- The tag of a record about a slot that is EMPTY by then is the notice's own (R58, R159). -/
theorem State.recordTag_empty (s : State) (n : Notice) (i : Slot) (h : n.subject = .stream i)
    (he : s.liveEntry i = none) : s.recordTag n = n.tag := by
  simp only [State.recordTag, h, he]; rfl

/-- The set latches of a table, counted by reading it (R133, R164). -/
theorem setLatches_eq {n : Nat} (v : Vector Bool n) : setLatches v = ((List.finRange n).filter (rd v)).length := by
  have : v.toList = (List.finRange n).map (rd v) := by apply List.ext_getElem <;> simp [rd]
  rw [setLatches, this, List.countP_map, List.countP_eq_length_filter]; rfl

end Sys2Proof.Machine
end

