-- ==== Sys2Proof/Laws/Stream.lean ====
section
/-! SUPPORT. What one event of a stream can do to the pool, the data queue and the raised notices: for each shared
operation, one lemma that says how many buffers it moves, and that frames and notices only join at the back. -/

namespace Sys2Proof.Machine

/-- The buffers of the view: free, held by the stream, and in the data queue. -/
def StreamView.weight (v : StreamView) : Int := v.pool.free + v.rt.hold.length + v.dataQueue.length

/-- The pressure flag is set only below 32 free buffers (R110). -/
def Pool.settled (p : Pool) : Prop := p.pressure = true → p.free < 32

/-- From view `v` to view `w` within an event of context `c`, `k` buffers come into the view's three uses; the data queue
and the raised notices only grow at the back; with the link down the data queue stays; and the pressure flag stays
settled unless its test is left to the end of the event. -/
structure StreamView.Moves (c : StreamCtx) (k : Int) (v w : StreamView) : Prop where
  weight : w.weight = v.weight + k
  queue : v.dataQueue <+: w.dataQueue
  raised : v.raised <+: w.raised
  down : c.linkUp = false → w.dataQueue = v.dataQueue
  settled : c.deferTest = false → v.pool.settled → w.pool.settled

variable {c : StreamCtx} {u v w : StreamView} {j k : Int}

theorem StreamView.Moves.refl (c : StreamCtx) (v : StreamView) : v.Moves c 0 v :=
  ⟨by simp, List.prefix_rfl, List.prefix_rfl, fun _ => rfl, fun _ h => h⟩

theorem StreamView.Moves.trans (h : u.Moves c j v) (g : v.Moves c k w) : u.Moves c (j + k) w :=
  ⟨by rw [g.weight, h.weight]; ring, h.queue.trans g.queue, h.raised.trans g.raised,
   fun d => (g.down d).trans (h.down d), fun d p => g.settled d (h.settled d p)⟩

theorem StreamView.Moves.cast (h : v.Moves c j w) (e : j = k) : v.Moves c k w := e ▸ h

/-- A change of the record alone moves as many buffers as the hold list grows. -/
theorem StreamView.moves_mapRt (c : StreamCtx) (v : StreamView) (g : Runtime → Runtime)
    (h : ((g v.rt).hold.length : Int) = v.rt.hold.length + k) : v.Moves c k (v.mapRt g) :=
  ⟨by simp only [StreamView.weight, StreamView.mapRt]; omega, List.prefix_rfl, List.prefix_rfl, fun _ => rfl,
   fun _ p => p⟩

theorem StreamView.moves_count (c : StreamCtx) (v : StreamView) (g) : v.Moves c 0 (v.count g) :=
  v.moves_mapRt c _ (by simp)

theorem StreamView.moves_raise (c : StreamCtx) (kind detail) (v : StreamView) : v.Moves c 0 (v.raise c kind detail) :=
  ⟨by simp [StreamView.weight, StreamView.raise], List.prefix_rfl, List.prefix_append _ _, fun _ => rfl, fun _ p => p⟩

theorem StreamView.moves_setLatch (c : StreamCtx) (v : StreamView) : v.Moves c 0 v.setLatch :=
  ⟨by simp [StreamView.weight, StreamView.setLatch], List.prefix_rfl, List.prefix_rfl, fun _ => rfl, fun _ p => p⟩

theorem StreamView.moves_mapSelector (c : StreamCtx) (v : StreamView) (g) : v.Moves c 0 (v.mapSelector g) :=
  v.moves_mapRt c _ (by simp)

theorem StreamView.moves_arm (c : StreamCtx) (t us) (v : StreamView) : v.Moves c 0 (v.arm t us) :=
  v.moves_mapRt c _ (by simp)

theorem StreamView.moves_advance (c : StreamCtx) (v : StreamView) : v.Moves c 0 v.advance :=
  v.moves_mapRt c _ (by simp)

theorem StreamView.moves_clearCandidate (c : StreamCtx) (v : StreamView) : v.Moves c 0 v.clearCandidate :=
  v.moves_mapRt c _ (by simp)

theorem Pool.tested_free (p : Pool) : p.tested.1.free = p.free := by
  unfold Pool.tested; split <;> rfl

theorem Pool.tested_settled (p : Pool) : p.tested.1.settled := by
  unfold Pool.tested Pool.settled
  split
  · simp
  · rename_i h
    intro hp
    have hp : p.pressure = true := hp
    have : ¬ 32 ≤ p.free := fun hf => h (by simp only [hp, Bool.true_and]; exact decide_eq_true hf)
    show p.free < 32
    omega

theorem Pool.refused_free (p : Pool) : p.refused.1.free = p.free := by
  unfold Pool.refused; split <;> rfl

theorem StreamView.moves_noteRefusal (c : StreamCtx) (v : StreamView) (h : v.pool.free ≤ 16) :
    v.Moves c 0 v.noteRefusal :=
  ⟨by simp [StreamView.weight, StreamView.noteRefusal, Pool.refused_free], List.prefix_rfl, List.prefix_append _ _,
   fun _ => rfl, fun _ _ _ => by simp only [StreamView.noteRefusal, Pool.refused_free]; omega⟩

theorem StreamView.moves_noBufferDrop (c : StreamCtx) (v : StreamView) (h : v.pool.free ≤ 16) :
    v.Moves c 0 v.noBufferDrop :=
  ((v.moves_noteRefusal c h).trans (StreamView.moves_count c _ _)).cast (by simp)

theorem StreamView.moves_takeBuffer (c : StreamCtx) (v : StreamView) (h : 1 ≤ v.pool.free) :
    v.Moves c (-1) v.takeBuffer :=
  ⟨by simp only [StreamView.weight, StreamView.takeBuffer]; omega, List.prefix_rfl, List.prefix_rfl, fun _ => rfl,
   fun _ p q => by have := p q; simp only [StreamView.takeBuffer]; omega⟩

theorem StreamView.moves_freeBuffers (c : StreamCtx) (n : Nat) (v : StreamView) : v.Moves c n (v.freeBuffers c n) := by
  unfold StreamView.freeBuffers
  split
  · subst n; exact .refl c v
  · split
    · rename_i hd
      exact ⟨by simp only [StreamView.weight]; omega, List.prefix_rfl, List.prefix_rfl, fun _ => rfl,
        fun h => by simp [hd] at h⟩
    · exact ⟨by simp only [StreamView.weight, Pool.tested_free]; omega, List.prefix_rfl, List.prefix_append _ _,
        fun _ => rfl, fun _ _ => Pool.tested_settled _⟩

theorem StreamView.moves_flushHold (c : StreamCtx) (v : StreamView) : v.Moves c 0 (v.flushHold c) :=
  ((v.moves_mapRt c _ (k := -v.rt.hold.length) (by simp)).trans (StreamView.moves_freeBuffers c _ _)).cast (by simp)

theorem StreamView.moves_setActive (c : StreamCtx) (dest st timer) (v : StreamView) :
    v.Moves c 0 (v.setActive c dest st timer) := by
  unfold StreamView.setActive
  split
  · exact v.moves_mapSelector c _
  · have h := (v.moves_mapSelector c fun q => { q with state := st, holdOff := timer, active := dest, rescueRun := none }).trans
      (StreamView.moves_raise c .activeSwitch (feedOrNone v.rt.active ++ feedOrNone dest) _)
    exact ⟨by have := h.weight; simp only [StreamView.weight] at this ⊢; omega, h.queue, h.raised, h.down, h.settled⟩

theorem StreamView.moves_immediateSwitch (c : StreamCtx) (v : StreamView) : v.Moves c 0 (v.immediateSwitch c) := by
  unfold StreamView.immediateSwitch
  split <;> exact v.moves_setActive c _ _ _

theorem StreamView.moves_evaluate (c : StreamCtx) (p) (v : StreamView) : v.Moves c 0 (v.evaluate c p) := by
  unfold StreamView.evaluate
  split
  · exact .refl c v
  · split
    · exact v.moves_immediateSwitch c
    · split
      · exact v.moves_immediateSwitch c
      · exact v.moves_setActive c _ _ _

theorem StreamView.moves_reportRescue (c : StreamCtx) (g) (v : StreamView) : v.Moves c 0 (v.reportRescue c g) := by
  unfold StreamView.reportRescue
  split
  · split
    · exact .refl c v
    · split
      · exact v.moves_setActive c _ _ _
      · exact v.moves_mapSelector c _
  · exact .refl c v

theorem StreamView.moves_deliver (c : StreamCtx) (f) (v : StreamView) : v.Moves c 1 (v.deliver c f) := by
  unfold StreamView.deliver
  split
  · rename_i h
    exact ⟨by simp only [StreamView.weight, List.length_append, List.length_singleton]; push_cast; ring,
      List.prefix_append _ _, List.prefix_rfl, fun d => by simp [h] at d, fun _ p => p⟩
  · exact ((StreamView.moves_count c v _).trans (StreamView.moves_freeBuffers c 1 _)).cast (by simp)

/-- A release brings its buffer into the data queue, or back to the pool when the link is down (R27, R116). -/
theorem StreamView.moves_release (c : StreamCtx) (copy resync seek) (v : StreamView) :
    v.Moves c 1 (v.release c copy resync seek) := by
  have h0 : v.Moves c 0 { v with released := true } := ⟨by simp [StreamView.weight], List.prefix_rfl, List.prefix_rfl,
    fun _ => rfl, fun _ p => p⟩
  have h1 := h0.trans (StreamView.moves_mapRt c _ (k := 0) (fun r => { r with gapMark := false, placeholderRun := 0 })
    (by simp))
  have h2 := fun g => (h1.trans (StreamView.moves_count c _ g))
  have h3 := fun g f => (h2 g).trans (StreamView.moves_deliver c f _)
  unfold StreamView.release
  dsimp only
  split
  · exact ((h3 _ _).trans (StreamView.moves_reportRescue c _ _)).cast (by simp)
  · exact ((h3 _ _).trans (StreamView.moves_mapSelector c _ _)).cast (by simp)

theorem StreamView.moves_declareLost (c : StreamCtx) (m) (v : StreamView) : v.Moves c 0 (v.declareLost c m) := by
  unfold StreamView.declareLost
  split
  · exact .refl c v
  · split
    · exact .refl c v
    · exact (((StreamView.moves_mapRt c v (k := 0) _ (by simp)).trans (StreamView.moves_count c _ _)).trans
        ((StreamView.moves_setLatch c _).trans (StreamView.moves_raise c _ _ _))).cast (by simp)

/-! ### The hold list through the operations that leave it alone -/

@[simp] theorem StreamView.count_hold (v : StreamView) (g) : (v.count g).rt.hold = v.rt.hold := rfl

@[simp] theorem StreamView.raise_hold (c : StreamCtx) (kind detail) (v : StreamView) :
    (v.raise c kind detail).rt.hold = v.rt.hold := rfl

@[simp] theorem StreamView.mapSelector_hold (v : StreamView) (g) : (v.mapSelector g).rt.hold = v.rt.hold := rfl

@[simp] theorem StreamView.advance_hold (v : StreamView) : v.advance.rt.hold = v.rt.hold := rfl

@[simp] theorem StreamView.takeBuffer_hold (v : StreamView) : v.takeBuffer.rt.hold = v.rt.hold := rfl

@[simp] theorem StreamView.freeBuffers_rt (c : StreamCtx) (n) (v : StreamView) : (v.freeBuffers c n).rt = v.rt := by
  unfold StreamView.freeBuffers
  split
  · rfl
  · split <;> rfl

@[simp] theorem StreamView.deliver_hold (c : StreamCtx) (f) (v : StreamView) : (v.deliver c f).rt.hold = v.rt.hold := by
  unfold StreamView.deliver
  split
  · rfl
  · simp

@[simp] theorem StreamView.setActive_hold (c : StreamCtx) (dest st timer) (v : StreamView) :
    (v.setActive c dest st timer).rt.hold = v.rt.hold := by
  unfold StreamView.setActive
  split <;> rfl

@[simp] theorem StreamView.reportRescue_hold (c : StreamCtx) (g) (v : StreamView) :
    (v.reportRescue c g).rt.hold = v.rt.hold := by
  unfold StreamView.reportRescue StreamView.rescueSwitch
  split
  · split
    · rfl
    · split <;> simp
  · rfl

@[simp] theorem StreamView.release_hold (c : StreamCtx) (copy resync seek) (v : StreamView) :
    (v.release c copy resync seek).rt.hold = v.rt.hold := by
  unfold StreamView.release
  dsimp only
  split <;> simp <;> rfl

@[simp] theorem StreamView.declareLost_hold (c : StreamCtx) (m) (v : StreamView) :
    (v.declareLost c m).rt.hold = v.rt.hold := by
  unfold StreamView.declareLost
  split
  · rfl
  · split <;> rfl

/-! ### Runs, closes and re-examinations -/

/-- The release run passes each released head's buffer on (R31). -/
theorem StreamView.moves_releaseRun (c : StreamCtx) (anyFeed) (l : List Copy) (v : StreamView) (h : v.rt.hold = l) :
    v.Moves c 0 (v.releaseRun c anyFeed l) := by
  induction l generalizing v with
  | nil => exact .refl c v
  | cons a t ih =>
    unfold StreamView.releaseRun
    split
    · have h1 : v.Moves c (-1) (v.mapRt fun r => { r with hold := t }) :=
        v.moves_mapRt c _ (by simp only [h, List.length_cons]; push_cast; ring)
      have h2 := (h1.trans (StreamView.moves_release c a false false _)).trans (StreamView.moves_advance c _)
      exact (h2.trans (ih _ (by simp; rfl))).cast (by simp)
    · exact .refl c v

theorem StreamView.moves_recover (c : StreamCtx) (v : StreamView) : v.Moves c 0 (v.recover c) := by
  unfold StreamView.recover
  split
  · exact ((StreamView.moves_mapRt c v (k := 0) _ (by simp)).trans (StreamView.moves_raise c _ _ _)).cast (by simp)
  · exact .refl c v

theorem StreamView.moves_closeArrival (c : StreamCtx) (v : StreamView) : v.Moves c 0 (v.closeArrival c) :=
  (((v.moves_arm c _ _).trans (StreamView.moves_mapRt c _ (k := 0) _ (by simp))).trans
    (StreamView.moves_recover c _)).cast (by simp)

theorem StreamView.moves_closeIfReleased (c : StreamCtx) (v : StreamView) : v.Moves c 0 (v.closeIfReleased c) := by
  unfold StreamView.closeIfReleased
  split
  · exact v.moves_closeArrival c
  · exact .refl c v

theorem StreamView.moves_reexamine (c : StreamCtx) (v : StreamView) : v.Moves c 0 (v.reexamine c) := by
  unfold StreamView.reexamine
  split
  · exact .refl c v
  · split
    · exact ((v.moves_releaseRun c false _ rfl).trans (StreamView.moves_closeArrival c _)).cast (by simp)
    · exact .refl c v

/-! ### Arrivals -/

theorem StreamView.releaseGranted_free {v : StreamView} (h : v.releaseGranted = true) : 1 ≤ v.pool.free := by
  simpa [StreamView.releaseGranted] using h

theorem StreamView.releaseRefused_free {v : StreamView} (h : ¬v.releaseGranted = true) : v.pool.free ≤ 16 := by
  simp [StreamView.releaseGranted] at h
  omega

theorem StreamView.holdGranted_free {v : StreamView} (h : v.holdGranted = true) : 16 < v.pool.free :=
  of_decide_eq_true h

theorem StreamView.holdRefused_free {v : StreamView} (h : ¬v.holdGranted = true) : v.pool.free ≤ 16 :=
  Nat.le_of_not_lt fun hf => h (decide_eq_true hf)

@[simp] theorem insertHold_length (n : Seq) (copy : Copy) (l : List Copy) :
    (insertHold n copy l).length = l.length + 1 := by
  induction l with
  | nil => rfl
  | cons a t ih =>
    unfold insertHold
    split
    · rfl
    · simp [ih]

@[simp] theorem replaceHeld_length (copy : Copy) (l : List Copy) : (replaceHeld copy l).length = l.length := by
  simp [replaceHeld]

/-- A claimed release takes a free buffer into the data queue. -/
theorem StreamView.moves_claimRelease (c : StreamCtx) (copy resync seek) (v : StreamView) (h : 1 ≤ v.pool.free) :
    v.Moves c 0 (v.takeBuffer.release c copy resync seek) :=
  ((v.moves_takeBuffer c h).trans (StreamView.moves_release c _ _ _ _)).cast (by simp)

theorem StreamView.moves_arriveSeeking (c : StreamCtx) (copy) (v : StreamView) :
    v.Moves c 0 (v.arriveSeeking c copy) := by
  unfold StreamView.arriveSeeking
  split
  · rename_i h
    exact (((v.moves_claimRelease c copy false true (releaseGranted_free h)).trans
      (StreamView.moves_mapRt c _ (k := 0) _ (by simp))).trans (StreamView.moves_closeArrival c _)).cast (by simp)
  · rename_i h
    exact v.moves_noBufferDrop c (releaseRefused_free h)

theorem StreamView.moves_hold (c : StreamCtx) (n copy) (v : StreamView) : v.Moves c 0 (v.hold n copy) := by
  unfold StreamView.hold
  split
  · rename_i h
    have := holdGranted_free h
    exact (((v.moves_takeBuffer c (by omega)).trans (StreamView.moves_mapRt c _ (k := 1) _ (by simp))).trans
      (StreamView.moves_clearCandidate c _)).cast (by simp)
  · rename_i h
    exact v.moves_noBufferDrop c (holdRefused_free h)

theorem StreamView.moves_releaseNext (c : StreamCtx) (copy) (v : StreamView) : v.Moves c 0 (v.releaseNext c copy) := by
  unfold StreamView.releaseNext
  split
  · rename_i h
    exact (((v.moves_claimRelease c copy false false (releaseGranted_free h)).trans
      (StreamView.moves_advance c _)).trans (StreamView.moves_releaseRun c false _ _ rfl)).cast (by simp)
  · rename_i h
    exact v.moves_noBufferDrop c (releaseRefused_free h)

theorem StreamView.moves_reconsider (c : StreamCtx) (copy) (v : StreamView) : v.Moves c 0 (v.reconsider c copy) := by
  unfold StreamView.reconsider
  split
  · exact .refl c v
  · split
    · split
      · exact v.moves_releaseNext c copy
      · exact v.moves_hold c _ copy
    · exact v.moves_hold c _ copy

theorem StreamView.moves_pressureRelease (c : StreamCtx) (n copy) (v : StreamView) :
    v.Moves c 0 (v.pressureRelease c n copy) :=
  ((((v.moves_declareLost c _).trans (StreamView.moves_releaseRun c true _ _ rfl)).trans
    (StreamView.moves_reconsider c copy _)).trans (StreamView.moves_closeIfReleased c _)).cast (by simp)

theorem StreamView.moves_discardFallback (c : StreamCtx) (n) (v : StreamView) :
    v.Moves c 0 (v.discardFallback c n) := by
  unfold StreamView.discardFallback
  split
  · rename_i h
    have hl : 1 ≤ v.rt.hold.length := by
      cases hh : v.rt.hold with
      | nil => simp [hh, headIsFallback] at h
      | cons => simp
    exact ((StreamView.moves_mapRt c v (k := -1) _ (by simp; omega)).trans
      (StreamView.moves_freeBuffers c 1 _)).cast (by simp)
  · exact .refl c v

theorem StreamView.moves_lateDuplicate (c : StreamCtx) (v : StreamView) : v.Moves c 0 v.lateDuplicate :=
  v.moves_count c _

theorem StreamView.moves_arriveNext (c : StreamCtx) (n copy) (v : StreamView) : v.Moves c 0 (v.arriveNext c n copy) := by
  unfold StreamView.arriveNext
  split
  · exact (((v.moves_discardFallback c n).trans (StreamView.moves_releaseNext c copy _)).trans
      (StreamView.moves_closeIfReleased c _)).cast (by simp)
  · split
    · exact ((v.moves_lateDuplicate c).trans (StreamView.moves_clearCandidate c _)).cast (by simp)
    · split
      · exact v.moves_hold c n copy
      · exact v.moves_pressureRelease c n copy

theorem StreamView.moves_arriveAhead (c : StreamCtx) (n copy) (v : StreamView) :
    v.Moves c 0 (v.arriveAhead c n copy) := by
  unfold StreamView.arriveAhead
  split
  · split
    · exact ((v.moves_mapRt c (k := 0) _ (by simp)).trans (StreamView.moves_clearCandidate c _)).cast (by simp)
    · exact ((v.moves_lateDuplicate c).trans (StreamView.moves_clearCandidate c _)).cast (by simp)
  · split
    · exact v.moves_hold c n copy
    · exact v.moves_pressureRelease c n copy

theorem StreamView.moves_resynchronise (c : StreamCtx) (copy) (v : StreamView) :
    v.Moves c 0 (v.resynchronise c copy) := by
  unfold StreamView.resynchronise
  split
  · rename_i h
    exact v.moves_noBufferDrop c (by omega)
  · rename_i h
    have h1 : v.Moves c (-1) (if v.rt.hold.length = 0 || c.deferTest then
        ({ v with rt := { v.rt with hold := [] }
                  pool := { v.pool with free := v.pool.free + v.rt.hold.length - 1 } } : StreamView)
        else { v with rt := { v.rt with hold := [] }
                      pool := (Pool.tested { v.pool with free := v.pool.free + v.rt.hold.length - 1 }).1
                      raised := v.raised ++
                        (Pool.tested { v.pool with free := v.pool.free + v.rt.hold.length - 1 }).2 }) := by
      split
      · rename_i hd
        exact ⟨by simp only [StreamView.weight, List.length_nil]; omega, List.prefix_rfl, List.prefix_rfl, fun _ => rfl,
          fun d q hp => by
            have hq := q hp
            simp [d] at hd
            simp only [hd, List.length_nil]
            omega⟩
      · exact ⟨by simp only [StreamView.weight, Pool.tested_free, List.length_nil]; omega, List.prefix_rfl,
          List.prefix_append _ _, fun _ => rfl, fun _ _ => Pool.tested_settled _⟩
    have h2 := (((h1.trans (StreamView.moves_mapRt c _ (k := 0) (fun r => { r with gapMark := false }) (by simp))).trans
      (StreamView.moves_release c copy true false _)).trans (StreamView.moves_mapRt c _ (k := 0)
        (fun r => { r with nes := some (copy.seq + 1), mergeState := .tracking }) (by simp)))
    have h3 := ((h2.trans (StreamView.moves_count c _ fun k => { k with resyncs := satInc k.resyncs })).trans
      (StreamView.moves_setLatch c _)).trans (StreamView.moves_raise c .streamResync copy.seq _)
    dsimp only
    split
    · exact ((h3.trans (StreamView.moves_raise c _ _ _)).trans (StreamView.moves_closeArrival c _)).cast (by simp)
    · exact (h3.trans (StreamView.moves_closeArrival c _)).cast (by simp)

theorem StreamView.moves_arriveOutOfWindow (c : StreamCtx) (copy) (v : StreamView) :
    v.Moves c 0 (v.arriveOutOfWindow c copy) := by
  unfold StreamView.arriveOutOfWindow
  dsimp only
  split
  · exact ((v.moves_count c _).trans (StreamView.moves_resynchronise c copy _)).cast (by simp)
  · exact ((v.moves_count c _).trans (StreamView.moves_mapRt c _ (k := 0) _ (by simp))).cast (by simp)

theorem StreamView.moves_arriveFollowing (c : StreamCtx) (n copy) (v : StreamView) :
    v.Moves c 0 (v.arriveFollowing c n copy) := by
  unfold StreamView.arriveFollowing
  split
  · exact v.moves_arriveNext c n copy
  · split
    · exact v.moves_lateDuplicate c
    · split
      · exact v.moves_arriveAhead c n copy
      · exact v.moves_arriveOutOfWindow c copy

theorem StreamView.moves_arriveStarved (c : StreamCtx) (n copy) (v : StreamView) :
    v.Moves c 0 (v.arriveStarved c n copy) := by
  unfold StreamView.arriveStarved
  split
  · exact v.moves_arriveOutOfWindow c copy
  · split
    · rename_i h
      exact ((((((v.moves_takeBuffer c (releaseGranted_free h)).trans (StreamView.moves_declareLost c copy.seq _)).trans
        (StreamView.moves_release c copy false false _)).trans (StreamView.moves_mapRt c _ (k := 0) _ (by simp))).trans
        (StreamView.moves_raise c _ _ _)).trans (StreamView.moves_closeArrival c _)).cast (by simp)
    · rename_i h
      exact v.moves_noBufferDrop c (releaseRefused_free h)

theorem StreamView.moves_arrive (c : StreamCtx) (copy) (v : StreamView) : v.Moves c 0 (v.arrive c copy) := by
  unfold StreamView.arrive
  split
  · exact ((v.moves_arriveSeeking c copy).trans (StreamView.moves_reexamine c _)).cast (by simp)
  · exact ((v.moves_arriveFollowing c _ copy).trans (StreamView.moves_reexamine c _)).cast (by simp)
  · exact ((v.moves_arriveFollowing c _ copy).trans (StreamView.moves_reexamine c _)).cast (by simp)
  · exact ((v.moves_arriveStarved c _ copy).trans (StreamView.moves_reexamine c _)).cast (by simp)
  · exact .refl c v

/-- Taking a mapped copy moves no buffer out of its stream's view (R24 to R43). -/
theorem StreamView.moves_admitCopy (c : StreamCtx) (copy) (v : StreamView) : v.Moves c 0 (v.admitCopy c copy) := by
  unfold StreamView.admitCopy
  split
  · exact v.moves_count c _
  · split
    · exact ((v.moves_count c _).trans (StreamView.moves_raise c _ _ _)).cast (by simp)
    · exact v.moves_arrive c copy

/-! ### Expiries, reviews, restarts and the swap -/

theorem StreamView.moves_expireHeld (c : StreamCtx) (x h) (v : StreamView) : v.Moves c 0 (v.expireHeld c x h) := by
  have h1 := (((v.moves_declareLost c h.seq).trans (StreamView.moves_releaseRun c true _ _ rfl)).trans
    (StreamView.moves_mapRt c _ (k := 0) (fun r => { r with mergeState := .tracking }) (by simp))).trans
    (StreamView.moves_arm c x (c.entry.period + c.entry.slack) _)
  unfold StreamView.expireHeld
  dsimp only
  split
  · exact (h1.trans (StreamView.moves_raise c _ _ _)).cast (by simp)
  · exact h1.cast (by simp)

theorem StreamView.moves_closeBridging (c : StreamCtx) (x) (v : StreamView) : v.Moves c 0 (v.closeBridging c x) := by
  unfold StreamView.closeBridging
  dsimp only
  split
  · exact ((((v.moves_arm c _ _).trans (StreamView.moves_mapRt c _ (k := 0) _ (by simp))).trans
      (StreamView.moves_setLatch c _)).trans (StreamView.moves_raise c _ _ _)).cast (by simp)
  · exact v.moves_arm c _ _

theorem StreamView.moves_placeholder (c : StreamCtx) (n) (v : StreamView) : v.Moves c 0 (v.placeholder c n) := by
  unfold StreamView.placeholder
  split
  · rename_i h
    exact (((((v.moves_takeBuffer c (releaseGranted_free h)).trans (StreamView.moves_mapRt c _ (k := 0) _ (by simp))).trans
      (StreamView.moves_deliver c _ _)).trans (StreamView.moves_count c _ _)).trans
      (StreamView.moves_advance c _)).cast (by simp)
  · rename_i h
    exact ((((v.moves_noteRefusal c (releaseRefused_free h)).trans (StreamView.moves_declareLost c _ _)).trans
      (StreamView.moves_count c _ _)).trans (StreamView.moves_mapRt c _ (k := 0) _ (by simp))).cast (by simp)

theorem StreamView.moves_starve (c : StreamCtx) (v : StreamView) : v.Moves c 0 (v.starve c) :=
  (((v.moves_mapRt c (k := 0) _ (by simp)).trans (StreamView.moves_setLatch c _)).trans
    (StreamView.moves_raise c _ _ _)).cast (by simp)

/-- A due expiry moves no buffer out of its stream's view (R48 to R57). -/
theorem StreamView.moves_expireDue (c : StreamCtx) (x n) (v : StreamView) : v.Moves c 0 (v.expireDue c x n) := by
  unfold StreamView.expireDue
  split
  · exact ((v.moves_expireHeld c x _).trans (StreamView.moves_reexamine c _)).cast (by simp)
  · split
    · exact ((v.moves_placeholder c n).trans (StreamView.moves_closeBridging c x _)).cast (by simp)
    · exact v.moves_starve c

theorem StreamView.moves_review (c : StreamCtx) (v : StreamView) : v.Moves c 0 (v.review c) := by
  unfold StreamView.review
  split
  · exact .refl c v
  · exact (((v.moves_mapSelector c _).trans (StreamView.moves_evaluate c _ _)).trans
      (StreamView.moves_reexamine c _)).cast (by simp)

theorem StreamView.moves_expireHoldOff (c : StreamCtx) (v : StreamView) : v.Moves c 0 (v.expireHoldOff c) :=
  (((v.moves_mapSelector c _).trans (StreamView.moves_immediateSwitch c _)).trans
    (StreamView.moves_reexamine c _)).cast (by simp)

theorem StreamView.moves_restart (c : StreamCtx) (v : StreamView) : v.Moves c 0 (v.restart c) := by
  have h0 : (v.flushHold c).rt.hold = [] := by simp [StreamView.flushHold, StreamView.mapRt]
  have h1 := (v.moves_flushHold c).trans (StreamView.moves_mapRt c _ (k := 0) (fun r =>
    { Runtime.disabled r.counters with
      mergeState := .seeking
      selector := r.selector.map fun q => { q with holdOff := none, rescueRun := none, reviewPending := false } })
      (by simp [h0, Runtime.disabled]))
  unfold StreamView.restart
  dsimp only
  split
  · exact h1.cast (by simp)
  · split
    · exact (h1.trans (StreamView.moves_immediateSwitch c _)).cast (by simp)
    · exact h1.cast (by simp)

theorem StreamView.moves_initialise (c : StreamCtx) (v : StreamView) : v.Moves c 0 (v.initialise c) := by
  have h := v.moves_flushHold c
  have h0 : (v.flushHold c).rt.hold = [] := by simp [StreamView.flushHold, StreamView.mapRt]
  refine ⟨?_, h.queue, h.raised, h.down, h.settled⟩
  have := h.weight
  simp only [StreamView.weight, h0, StreamView.initialise, Runtime.disabled] at this ⊢
  exact this

theorem trimHold_length (e : Entry) (n : Seq) (hold : List Copy) : (trimHold e n hold).length ≤ hold.length := by
  unfold trimHold
  refine (List.length_take_le' _ _).trans ((List.length_filter_le _ _).trans (List.length_filter_le _ _))

theorem StreamView.moves_retune (c : StreamCtx) (v : StreamView) : v.Moves c 0 (v.retune c) := by
  have key : ∀ kept : List Copy, kept.length ≤ v.rt.hold.length → v.Moves c 0
      (((v.mapRt fun r => { r with hold := kept }).freeBuffers c (v.rt.hold.length - kept.length)).clearCandidate) := by
    intro kept hk
    exact (((v.moves_mapRt c (k := (kept.length : Int) - v.rt.hold.length) _ (by simp)).trans
      (StreamView.moves_freeBuffers c _ _)).trans (StreamView.moves_clearCandidate c _)).cast (by omega)
  have hk : (match v.rt.nes with
      | some n => trimHold c.entry n v.rt.hold
      | none => v.rt.hold).length ≤ v.rt.hold.length := by
    split
    · exact trimHold_length _ _ _
    · exact le_refl _
  unfold StreamView.retune
  dsimp only
  split
  · exact key _ hk
  · exact ((((key _ hk).trans (StreamView.moves_mapSelector c _ _)).trans (StreamView.moves_evaluate c _ _)).trans
      (StreamView.moves_reexamine c _)).cast (by simp)

end Sys2Proof.Machine
end

