-- ==== Sys2Proof/Laws/Events.lean ====
section
/-! SUPPORT. What each event and each shared operation of the part can change: one frame lemma per event, which says which
fields of the state it writes, and leaves the rest as it was. -/

namespace Sys2Proof.Machine

/-! ### Feed events -/

/-- From `s` to `t`, only ports, monitors, feed events and feed latches change, and notices are raised. -/
def FeedChange (s t : State) : Prop :=
  ∃ ps ms es ls ns, t = { s with
    ports := ps, monitors := ms, feedEvents := es, feedLatches := ls
    notices := { s.notices with raised := s.notices.raised ++ ns } }

theorem FeedChange.refl (s : State) : FeedChange s s :=
  ⟨s.ports, s.monitors, s.feedEvents, s.feedLatches, [], by simp⟩

theorem FeedChange.trans {s t u : State} (h : FeedChange s t) (g : FeedChange t u) : FeedChange s u := by
  obtain ⟨_, _, _, _, ns, rfl⟩ := h
  obtain ⟨ps, ms, es, ls, ms', rfl⟩ := g
  exact ⟨ps, ms, es, ls, ns ++ ms', by simp⟩

theorem State.setMonitor_change (s : State) (f : Feed) (m : Monitor) : FeedChange s (s.setMonitor f m) :=
  ⟨s.ports, _, s.feedEvents, s.feedLatches, [], by simp only [List.append_nil]; rfl⟩

theorem State.setPort_change (s : State) (f : Feed) (p : Port) : FeedChange s (s.setPort f p) :=
  ⟨_, s.monitors, s.feedEvents, s.feedLatches, [], by simp only [List.append_nil]; rfl⟩

theorem State.publish_change (s : State) (f : Feed) (m : Monitor) (c : UnusableCause) :
    FeedChange s (s.publish f m c) := by
  simp only [State.publish]
  split
  · exact s.setMonitor_change f _
  · split
    · exact ⟨s.ports, _, _, s.feedLatches, _, rfl⟩
    · exact ⟨s.ports, _, _, _, _, rfl⟩

theorem State.feedFrameReceived_change (s : State) (f : Feed) (bytes : List Byte) :
    FeedChange s (s.feedFrameReceived f bytes) := by
  have key : ∀ (u : State) b, FeedChange u (u.classify f b) := by
    intro u b
    simp only [State.classify]
    split
    · exact u.setMonitor_change f _
    · refine (u.setMonitor_change f ((rd u.monitors f).report false)).trans ?_
      split
      · exact State.setMonitor_change _ f _
      · split
        · exact State.setMonitor_change _ f _
        · exact State.setPort_change _ f _
  simp only [State.feedFrameReceived]
  split
  · exact s.setPort_change f _
  · exact (s.setPort_change f _).trans (key _ _)

theorem State.feedLinkDown_change (s : State) (f : Feed) : FeedChange s (s.feedLinkDown f) :=
  (s.setPort_change f _).trans (State.publish_change _ f _ _)

theorem State.feedLinkUp_change (s : State) (f : Feed) : FeedChange s (s.feedLinkUp f) := s.publish_change f _ _

theorem State.windowExpiry_change (s : State) (f : Feed) : FeedChange s (s.windowExpiry f) := by
  simp only [State.windowExpiry]
  split
  · exact .refl s
  · split
    · exact (s.publish_change f _ .quarantine).trans (State.setMonitor_change _ f _)
    · exact .refl s

theorem State.applySettings_change (s : State) (f : Feed) (p : Settings) : FeedChange s (s.applySettings f p) := by
  simp only [State.applySettings]
  split
  · exact (s.setPort_change f _).trans (State.publish_change _ f _ _)
  · exact s.publish_change f _ _

theorem State.restartMonitors_change (s : State) : FeedChange s s.restartMonitors := by
  have : ∀ (l : List Feed) (u : State), FeedChange u (l.foldl State.restartMonitor u) := by
    intro l
    induction l with
    | nil => exact fun u => .refl u
    | cons f t ih =>
      intro u
      refine (u.publish_change f ((rd u.monitors f).restart u.elapsed) .reset).trans (.trans ?_ (ih _))
      exact ⟨_, _, _, _, [], by simp only [List.append_nil]; rfl⟩
  exact this _ s

/-! ### Events of streams -/

/-- From `s` to `t`, only runtime records, pool, data queue and stream latches change and notices are raised; the data
queue and the raised notices grow at the back only, and the data queue stays while the delivery link is down. -/
structure StreamChange (s t : State) : Prop where
  eq : t = { s with
    runtimes := t.runtimes, pool := t.pool, dataQueue := t.dataQueue, streamLatches := t.streamLatches
    notices := { s.notices with raised := t.notices.raised } }
  queue : s.dataQueue <+: t.dataQueue
  raised : s.notices.raised <+: t.notices.raised
  down : s.delivery.linkUp = false → t.dataQueue = s.dataQueue

theorem StreamChange.refl (s : State) : StreamChange s s := ⟨rfl, List.prefix_rfl, List.prefix_rfl, fun _ => rfl⟩

theorem StreamChange.trans {s t u : State} (h : StreamChange s t) (g : StreamChange t u) : StreamChange s u :=
  ⟨by rw [g.eq, h.eq], h.queue.trans g.queue, h.raised.trans g.raised,
   fun d => (g.down (by rw [h.eq]; exact d)).trans (h.down d)⟩

section
variable {s t : State} (h : StreamChange s t)
include h

theorem StreamChange.pending : t.pending = s.pending := by rw [h.eq]
theorem StreamChange.elapsed : t.elapsed = s.elapsed := by rw [h.eq]
theorem StreamChange.ports : t.ports = s.ports := by rw [h.eq]
theorem StreamChange.monitors : t.monitors = s.monitors := by rw [h.eq]
theorem StreamChange.feedEvents : t.feedEvents = s.feedEvents := by rw [h.eq]
theorem StreamChange.bankA : t.bankA = s.bankA := by rw [h.eq]
theorem StreamChange.bankB : t.bankB = s.bankB := by rw [h.eq]
theorem StreamChange.live : t.live = s.live := by rw [h.eq]
theorem StreamChange.generation : t.generation = s.generation := by rw [h.eq]
theorem StreamChange.engine : t.engine = s.engine := by rw [h.eq]
theorem StreamChange.delivery : t.delivery = s.delivery := by rw [h.eq]
theorem StreamChange.inbox : t.inbox = s.inbox := by rw [h.eq]
theorem StreamChange.session : t.session = s.session := by rw [h.eq]
theorem StreamChange.feedLatches : t.feedLatches = s.feedLatches := by rw [h.eq]
theorem StreamChange.notices : t.notices = { s.notices with raised := t.notices.raised } := by
  conv => lhs; rw [h.eq]

theorem StreamChange.liveBank : t.liveBank = s.liveBank := by
  simp only [State.liveBank, h.live, h.bankA, h.bankB]

theorem StreamChange.standbyBank : t.standbyBank = s.standbyBank := by
  simp only [State.standbyBank, h.live, h.bankA, h.bankB]

theorem StreamChange.enabledEntry (i : Slot) : t.enabledEntry i = s.enabledEntry i := by
  simp only [State.enabledEntry, State.liveEntry, h.liveBank]
end

/-- An event of one stream whose view moves its buffers as R107 says changes only what an event of streams may. -/
theorem State.onStream_change (s : State) (i : Slot) (b : Bool) (g : StreamCtx → StreamView → StreamView)
    (hg : ∀ c (v : StreamView), v.Moves c 0 (g c v)) : StreamChange s (s.onStream i b g) := by
  simp only [State.onStream]
  cases s.enabledEntry i with
  | none => exact .refl s
  | some e =>
    have := hg (s.streamCtx i e b) (s.streamView i)
    exact ⟨rfl, this.queue, this.raised, this.down⟩

theorem State.dueExpiry_change (s : State) (i : Slot) : StreamChange s (s.dueExpiry i) := by
  simp only [State.dueExpiry]
  split
  · split
    · exact s.onStream_change i _ _ fun c v => v.moves_expireDue c _ _
    · exact .refl s
  · exact .refl s

theorem State.selectorReview_change (s : State) : StreamChange s s.selectorReview := by
  simp only [State.selectorReview]
  split
  · exact s.onStream_change _ _ _ fun c v => v.moves_review c
  · exact .refl s

theorem State.holdOffExpiry_change (s : State) (i : Slot) : StreamChange s (s.holdOffExpiry i) := by
  simp only [State.holdOffExpiry]
  split
  · split
    · exact s.onStream_change i _ _ fun c v => v.moves_expireHoldOff c
    · exact .refl s
  · exact .refl s

theorem State.restartStream_change (s : State) (i : Slot) (b : Bool) :
    StreamChange s (s.onStream i b fun c v => v.restart c) := s.onStream_change i b _ fun c v => v.moves_restart c

theorem State.restartStreams_change (s : State) : StreamChange s s.restartStreams := by
  have : ∀ (l : List Slot) (u : State),
      StreamChange u (l.foldl (fun t i => t.onStream i true fun c v => v.restart c) u) := by
    intro l
    induction l with
    | nil => exact fun u => .refl u
    | cons i t ih => exact fun u => (u.restartStream_change i true).trans (ih _)
  exact this _ s

theorem State.applyClass_change (s : State) (i : Slot) (old : Option Entry) : StreamChange s (s.applyClass i old) := by
  simp only [State.applyClass]
  split
  · exact s.onStream_change i _ _ fun c v => v.moves_initialise c
  · split
    · exact s.onStream_change i _ _ fun c v => v.moves_retune c
    · exact s.onStream_change i _ _ fun c v => v.moves_initialise c
  · exact ⟨rfl, List.prefix_rfl, List.prefix_rfl, fun _ => rfl⟩
  · split
    · exact .refl s
    · exact ⟨rfl, List.prefix_rfl, List.prefix_rfl, fun _ => rfl⟩

theorem State.applyClasses_change (old : Bank) (cs : List StagedChange) (s : State) :
    StreamChange s (s.applyClasses old cs) := by
  induction cs generalizing s with
  | nil => exact .refl s
  | cons x t ih => exact (s.applyClass_change x.slot (rd old.slots x.slot)).trans (ih _)

/-- Taking a copy is a stream event, but for the ports and the counters of a feed. -/
theorem State.copyTake_change (s : State) (f : Feed) :
    ∃ ps ms t, StreamChange s t ∧ s.copyTake f = { t with ports := ps, monitors := ms } := by
  simp only [State.copyTake]
  split
  · exact ⟨s.ports, s.monitors, s, .refl s, rfl⟩
  · rename_i copy rest _
    simp only [State.takeCopy]
    split
    · exact ⟨_, _, s, .refl s, rfl⟩
    · split
      · exact ⟨_, _, s, .refl s, rfl⟩
      · rename_i i _ _
        have h := State.onStream_change (s.setPort f { rd s.ports f with offered := rest }) i false
          (fun c v => v.admitCopy c copy) fun c v => v.moves_admitCopy c copy
        refine ⟨_, _, { (State.onStream (s.setPort f { rd s.ports f with offered := rest }) i false
          fun c v => v.admitCopy c copy) with ports := s.ports }, ⟨?_, h.queue, h.raised, h.down⟩, rfl⟩
        rw [h.eq]
        rfl

/-! ### The table engine -/

theorem State.setStandby_change (s : State) (b : Bank) :
    ∃ x y, s.setStandby b = { s with bankA := x, bankB := y } := by
  simp only [State.setStandby]
  split
  · exact ⟨s.bankA, _, rfl⟩
  · exact ⟨_, s.bankB, rfl⟩

@[simp] theorem State.setStandby_liveBank (s : State) (b : Bank) : (s.setStandby b).liveBank = s.liveBank := by
  simp only [State.setStandby, State.liveBank]
  cases s.live <;> rfl

@[simp] theorem State.setStandby_standbyBank (s : State) (b : Bank) : (s.setStandby b).standbyBank = b := by
  simp only [State.setStandby, State.standbyBank]
  cases s.live <;> rfl

@[simp] theorem State.other_liveBank (s : State) :
    ({ s with live := s.live.other } : State).liveBank = s.standbyBank := by
  simp only [State.liveBank, State.standbyBank]
  cases s.live <;> rfl

@[simp] theorem State.other_standbyBank (s : State) :
    ({ s with live := s.live.other } : State).standbyBank = s.liveBank := by
  simp only [State.liveBank, State.standbyBank]
  cases s.live <;> rfl

theorem State.prepareComplete_change (s : State) : s.prepareComplete = s ∨ ∃ c, s.engine = .preparing c false ∧
    s.prepareComplete =
      { s.setStandby (s.standbyBank.applyChanges c.changes) with engine := .preparing c true } := by
  unfold State.prepareComplete
  split
  · rename_i c hc
    exact Or.inr ⟨c, hc, rfl⟩
  · exact Or.inl rfl

theorem State.syncComplete_change (s : State) : s.syncComplete = s ∨ ∃ cs q, s.engine = .syncing cs q ∧
    s.syncComplete = { s.setStandby (s.standbyBank.applyChanges cs) with
      engine := (match q with | none => .ready | some q => .preparing q false) } := by
  unfold State.syncComplete
  split
  · rename_i cs hc
    exact Or.inr ⟨cs, none, hc, rfl⟩
  · rename_i cs q hc
    exact Or.inr ⟨cs, some q, hc, rfl⟩
  · exact Or.inl rfl

/-- The swap: a stream event under the other bank, then generation, pressure test, engine, session and delivery port. -/
theorem State.swap_change (s : State) : s.swap = s ∨ ∃ c t d ss ns, s.engine = .preparing c true ∧
    StreamChange { s with live := s.live.other } t ∧
    t = State.applyClasses { s with live := s.live.other } s.liveBank c.changes ∧
    ss = s.session.map (fun x => x.answered c (deferredReply c .ok (be32 (s.generation + 1)))) ∧
    (∃ r, d = (t.placeReply r).delivery) ∧
    s.swap = { t with
      generation := s.generation + 1, pool := t.pool.tested.1
      notices := { t.notices with raised := t.notices.raised ++ ns }
      engine := .syncing c.changes none, session := ss, delivery := d } := by
  unfold State.swap
  split
  · rename_i c hc
    right
    have f := State.applyClasses_change s.liveBank c.changes { s with live := s.live.other }
    set t := State.applyClasses { s with live := s.live.other } s.liveBank c.changes
    have g : t.generation = s.generation := f.generation
    have se : t.session = s.session := f.session
    refine ⟨c, t, _, _, t.pool.tested.2, hc, f, rfl, rfl, ⟨deferredReply c .ok (be32 (s.generation + 1)), rfl⟩, ?_⟩
    simp only [State.placeReply, State.testPool, State.raiseAll, g, se]
    split
    · rfl
    · split <;> rfl
  · exact Or.inl rfl

/-! ### Replies, buffers and the delivery port -/

theorem State.placeReply_change (s : State) (r : Reply) : ∃ d, s.placeReply r = { s with delivery := d } := by
  simp only [State.placeReply]
  split
  · exact ⟨_, rfl⟩
  · split <;> exact ⟨_, rfl⟩

/-- What every placing of a reply keeps, abandoning the commits keeps. -/
theorem State.abandonCommits_keeps {I : State → Prop} (hI : ∀ s r, I s → I (s.placeReply r)) (s : State) (h : I s) :
    I s.abandonCommits := by
  have : ∀ (l : List Commit) (u : State), I u →
      I (l.foldl (fun t c => t.placeReply (deferredReply c .aborted [])) u) := by
    intro l
    induction l with
    | nil => exact fun u h => h
    | cons x t ih => exact fun u h => ih _ (hI _ _ h)
  exact this _ s h

theorem State.abandonCommits_change (s : State) : ∃ d, s.abandonCommits = { s with delivery := d } :=
  s.abandonCommits_keeps (I := fun t => ∃ d, t = { s with delivery := d })
    (fun t r h => by
      obtain ⟨d, rfl⟩ := h
      obtain ⟨d', h'⟩ := State.placeReply_change { s with delivery := d } r
      exact ⟨d', h'⟩) ⟨s.delivery, rfl⟩

theorem State.freeBuffers_change (s : State) (n : Nat) : ∃ p ns,
    s.freeBuffers n = { s with pool := p, notices := { s.notices with raised := s.notices.raised ++ ns } } := by
  simp only [State.freeBuffers]
  split
  · exact ⟨s.pool, [], by simp⟩
  · exact ⟨_, _, rfl⟩

theorem State.deliveryLinkDown_change (s : State) : ∃ fl p lo ns,
    s.deliveryLinkDown = { s with
      dataQueue := []
      delivery := { s.delivery with
        linkUp := false, receiveStore := [], controlQueue := [], replyWait := [], transmitter := .idle, dataRun := 0
        flushed := fl }
      pool := p
      notices := { s.notices with lost := lo, raised := s.notices.raised ++ ns } } := by
  simp only [State.deliveryLinkDown]
  obtain ⟨p, ns, h⟩ := State.freeBuffers_change ({ s with
    dataQueue := []
    delivery := { s.delivery with
      linkUp := false
      receiveStore := []
      controlQueue := []
      replyWait := []
      transmitter := .idle
      dataRun := 0
      flushed := satAdd s.delivery.flushed (s.dataQueue.length + s.delivery.transmitter.dataFrames) }
    notices := { s.notices with
      lost := satAdd16 s.notices.lost
        (noticeFrames s.delivery.controlQueue + s.delivery.transmitter.noticeFrames) } } : State)
    (s.dataQueue.length + s.delivery.transmitter.dataFrames)
  exact ⟨_, p, _, ns, h⟩

theorem State.transmissionStart_change (s : State) : ∃ q d,
    s.transmissionStart = { s with dataQueue := q, delivery := d } := by
  simp only [State.transmissionStart]
  split
  · split
    · exact ⟨_, _, rfl⟩
    · exact ⟨_, _, rfl⟩
    · exact ⟨s.dataQueue, _, rfl⟩
    · split
      · exact ⟨_, _, rfl⟩
      · exact ⟨s.dataQueue, _, rfl⟩
  · exact ⟨s.dataQueue, s.delivery, rfl⟩

theorem State.transmissionComplete_change (s : State) : ∃ p ns,
    s.transmissionComplete = { s with
      delivery := { s.delivery with transmitter := .idle }
      pool := p
      notices := { s.notices with raised := s.notices.raised ++ ns } } := by
  obtain ⟨p, ns, h⟩ := State.freeBuffers_change
    ({ s with delivery := { s.delivery with transmitter := .idle } } : State) s.delivery.transmitter.dataFrames
  exact ⟨p, ns, h⟩

theorem State.replyWaitAdmit_change (s : State) : ∃ d, s.replyWaitAdmit = { s with delivery := d } := by
  simp only [State.replyWaitAdmit]
  split
  · exact ⟨s.delivery, rfl⟩
  · split
    · exact ⟨_, rfl⟩
    · exact ⟨s.delivery, rfl⟩

theorem State.deliveryFrameReceived_change (s : State) (bytes : List Byte) : ∃ er fo ib io ns,
    s.deliveryFrameReceived bytes = { s with
      delivery := { s.delivery with receiveStore := [], errored := er, foreign := fo }
      inbox := ib
      inboxOverflows := io
      notices := { s.notices with raised := s.notices.raised ++ ns } } ∧
    (ib = s.inbox ∨ ∃ c, s.inbox.length < Config.inboxPlaces ∧ ib = s.inbox ++ [c]) := by
  simp only [State.deliveryFrameReceived, State.deliveryClassify]
  split
  · exact ⟨_, s.delivery.foreign, s.inbox, s.inboxOverflows, [], (by simp only [List.append_nil]; rfl), Or.inl rfl⟩
  · split
    · exact ⟨s.delivery.errored, _, s.inbox, s.inboxOverflows, [], (by simp only [List.append_nil]; rfl), Or.inl rfl⟩
    · simp only [State.inboxAccept]
      split
      · rename_i h
        exact ⟨s.delivery.errored, s.delivery.foreign, _, s.inboxOverflows, [], (by simp only [List.append_nil]; rfl),
          Or.inr ⟨_, h, rfl⟩⟩
      · exact ⟨s.delivery.errored, s.delivery.foreign, s.inbox, _, _, rfl, Or.inl rfl⟩

/-! ### Sessions, notices and counters -/

theorem State.feedEvent_change (s : State) (f : Feed) : ∃ es rs,
    s.feedEvent f = { s with feedEvents := es, runtimes := rs } := by
  simp only [State.feedEvent]
  split
  · exact ⟨s.feedEvents, s.runtimes, rfl⟩
  · exact ⟨_, _, rfl⟩

theorem State.idleExpire_change (s : State) : s.idleExpire = s ∨ ∃ ns,
    s.idleExpire = { s with session := none, notices := { s.notices with raised := ns } } := by
  simp only [State.idleExpire]
  split
  · split
    · exact Or.inr ⟨_, rfl⟩
    · exact Or.inl rfl
  · exact Or.inl rfl

/-- A notice taken by the notice unit changes that unit alone (R159). -/
theorem State.takeNotice_change (s : State) (n : Notice) : ∃ u, s.takeNotice n = { s with notices := u } := by
  simp only [State.takeNotice]
  split
  · exact ⟨_, rfl⟩
  · split <;> exact ⟨_, rfl⟩

theorem State.noticeRaise_change (s : State) : ∃ u, s.noticeRaise = { s with notices := u } := by
  simp only [State.noticeRaise]
  split
  · exact State.takeNotice_change { s with notices := _ } _
  · exact ⟨s.notices, rfl⟩
  · split
    · exact State.takeNotice_change { s with notices := _ } _
    · exact ⟨_, rfl⟩

theorem State.noticeMove_change (s : State) : ∃ n q,
    s.noticeMove = { s with notices := n, delivery := { s.delivery with controlQueue := q } } := by
  simp only [State.noticeMove]
  split
  · exact ⟨s.notices, s.delivery.controlQueue, rfl⟩
  · split
    · exact ⟨_, _, rfl⟩
    · exact ⟨s.notices, s.delivery.controlQueue, rfl⟩

theorem State.refillExpiry_change (s : State) : ∃ n, s.refillExpiry = { s with notices := n } := by
  simp only [State.refillExpiry]
  split
  · exact ⟨_, rfl⟩
  · exact ⟨s.notices, rfl⟩

theorem State.acknowledge_change (s : State) (t : AckTarget) : ∃ f l,
    s.acknowledge t = { s with feedLatches := f, streamLatches := l } := ⟨_, _, rfl⟩

/-- Clearing a target's counters changes counters only (R140). -/
theorem State.clearTarget_change {s t : State} {type number : Byte} (h : s.clearTarget type number = some t) :
    ∃ rs ms io e f l,
      t = { s with
        runtimes := rs, monitors := ms, inboxOverflows := io
        delivery := { s.delivery with errored := e, foreign := f, flushed := l } } ∧
      (∀ i, ∃ k, rd rs i = { rd s.runtimes i with counters := k }) ∧
      ∀ i, ∃ k, rd ms i = { rd s.monitors i with counters := k } := by
  have idr : ∀ i, ∃ k, rd s.runtimes i = { rd s.runtimes i with counters := k } := fun i => ⟨_, rfl⟩
  have idm : ∀ i, ∃ k, rd s.monitors i = { rd s.monitors i with counters := k } := fun i => ⟨_, rfl⟩
  simp only [State.clearTarget] at h
  split at h
  · cases h
    refine ⟨_, s.monitors, s.inboxOverflows, s.delivery.errored, s.delivery.foreign, s.delivery.flushed, rfl,
      fun i => ?_, idm⟩
    simp only [rd_wr]
    split
    · rename_i k
      rw [k]
      exact ⟨_, rfl⟩
    · exact ⟨_, rfl⟩
  · split at h
    · cases hf : feedOf number with
      | none => rw [hf] at h; cases h
      | some f =>
        rw [hf] at h
        cases h
        refine ⟨s.runtimes, _, s.inboxOverflows, s.delivery.errored, s.delivery.foreign, s.delivery.flushed, rfl, idr,
          fun i => ?_⟩
        simp only [rd_wr]
        split
        · rename_i k
          rw [k]
          exact ⟨_, rfl⟩
        · exact ⟨_, rfl⟩
    · split at h
      · cases h
        exact ⟨s.runtimes, s.monitors, s.inboxOverflows, _, _, _, rfl, idr, idm⟩
      · split at h
        · cases h
          exact ⟨_, _, _, _, _, _, rfl, fun i => ⟨StreamCounters.zero, by rw [rd_tab]⟩,
            fun i => ⟨FeedCounters.zero, rd_tab _ _⟩⟩
        · cases h

/-! ### Resets -/

/-- RESET_PART of level RESTART: abandoned commits, the standby bank rebuilt, every stream restarted, the data queue
flushed (R143). -/
theorem State.restartPart_change (s : State) : ∃ t u d ns fl p, s.abandonCommits = { s with delivery := d } ∧
    t = { s.setStandby s.liveBank with engine := .ready, delivery := d } ∧ u = t.restartStreams ∧ StreamChange t u ∧
    s.restartPart = { u with
      dataQueue := [], pool := p, delivery := { d with flushed := fl }
      notices := { u.notices with raised := u.notices.raised ++ ns } } ∧
    p = (Pool.tested { u.pool with free := u.pool.free + u.dataQueue.length }).1 := by
  obtain ⟨d, hd⟩ := s.abandonCommits_change
  have rb : s.abandonCommits.rebuildStandby = { s.setStandby s.liveBank with engine := .ready, delivery := d } := by
    rw [hd]
    simp only [State.rebuildStandby, State.setStandby, State.liveBank]
    cases s.live <;> rfl
  have h := State.restartStreams_change ({ s.setStandby s.liveBank with engine := .ready, delivery := d } : State)
  have hu : (State.restartStreams { s.setStandby s.liveBank with engine := .ready, delivery := d }).delivery = d :=
    h.delivery
  set u := State.restartStreams { s.setStandby s.liveBank with engine := .ready, delivery := d }
  refine ⟨_, u, d, (Pool.tested { u.pool with free := u.pool.free + u.dataQueue.length }).2,
    satAdd d.flushed u.dataQueue.length, _, hd, rfl, rfl, h, ?_, rfl⟩
  simp only [State.restartPart, rb, State.flushData, State.testPool, State.raiseAll]
  rw [show (State.restartStreams { s.setStandby s.liveBank with engine := .ready, delivery := d }) = u from rfl, hu]

/-- RESET_PART of level CLEAR (R144). -/
theorem State.clearPart_change (s : State) : ∃ d ms es ls ns,
    s.dropControl.abandonCommits = { s with delivery := d } ∧
    s.clearPart = { s with
      monitors := ms, feedEvents := es, feedLatches := ls
      bankA := Bank.empty, bankB := Bank.empty, live := .a, generation := 0, engine := .ready
      runtimes := tab fun _ => Runtime.disabled StreamCounters.zero
      dataQueue := []
      pool := { free := s.pool.free + s.heldEntries + s.dataQueue.length, pressure := false }
      delivery := { d with dataRun := 0, errored := 0, foreign := 0, flushed := 0 }
      inboxOverflows := 0
      notices := { NoticeUnit.start s.notices.stillDue s.elapsed with raised := ns }
      streamLatches := tab fun _ => false } := by
  obtain ⟨d, hd⟩ := s.dropControl.abandonCommits_change
  have hd' : s.dropControl.abandonCommits = { s with delivery := d } := by rw [hd]; rfl
  have keep : ∀ (l : List Feed) (u : State), (l.foldl State.restartMonitor u).ports = u.ports := by
    intro l
    induction l with
    | nil => exact fun u => rfl
    | cons f t ih =>
      intro u
      rw [List.foldl_cons, ih]
      simp only [State.restartMonitor, State.publish]
      split
      · rfl
      · split <;> rfl
  have hp := keep allFeeds s.dropControl.abandonCommits.clearStreams.clearNotices
  obtain ⟨ps, ms, es, ls, ns, h⟩ := s.dropControl.abandonCommits.clearStreams.clearNotices.restartMonitors_change
  have hps : ps = s.ports := by
    have : s.dropControl.abandonCommits.clearStreams.clearNotices.restartMonitors.ports = ps := by rw [h]
    rw [← this, State.restartMonitors, hp, hd']
    rfl
  refine ⟨d, tab fun f => { rd ms f with counters := FeedCounters.zero }, es, ls, ns, hd', ?_⟩
  rw [State.clearPart, h, hps]
  simp only [State.clearPartCounters, State.clearAllFeedCounters, State.clearNotices, State.clearStreams,
    Delivery.clearCounters]
  rw [hd']
  rfl

end Sys2Proof.Machine
end

