-- ==== Sys2Proof/Laws/Kept.lean ====
section
/-! SUPPORT. The case split over every command, made once: a property of states that survives each thing a command can
do is kept by every command and by every step. -/

namespace Sys2Proof.Machine

/-- What a property `I` of states must survive so that every command outside `ex` keeps it: one field for each thing a
command can do. -/
structure Kept (I : State → Prop) (ex : Instr → Prop := fun _ => False) : Prop where
  placeReply : ∀ s r, I s → I (s.placeReply r)
  record : ∀ s q k, I s → I (s.recordExecuted q k)
  idle : ∀ s, I s → I s.restartIdle
  close : ∀ s, I s → I s.closeSession
  inbox : ∀ s c rest, s.inbox = c :: rest → I s → I { s with inbox := rest }
  openSession : ∀ s (ss : Session), (ss.staging = [] ∨ ss.staging = s.stagingList) → I s →
    I { s with session := some ss }
  por : ∀ s, ¬ex .por → I s → I s.powerOn
  feedFrame : ∀ s f bytes, I s → I (s.feedFrameReceived f bytes)
  linkDown : ∀ s f, I s → I (s.feedLinkDown f)
  linkUp : ∀ s f, I s → I (s.feedLinkUp f)
  window : ∀ s f, I s → I (s.windowExpiry f)
  feedEvent : ∀ s f, I s → I (s.feedEvent f)
  review : ∀ s, I s → I s.selectorReview
  holdOff : ∀ s i, I s → I (s.holdOffExpiry i)
  take : ∀ s f, I s → I (s.copyTake f)
  due : ∀ s i, I s → I (s.dueExpiry i)
  deliveryFrame : ∀ s bytes, I s → I (s.deliveryFrameReceived bytes)
  deliveryDown : ∀ s, ¬ex .deliveryLinkDown → I s → I s.deliveryLinkDown
  deliveryUp : ∀ s, I s → I s.deliveryLinkUp
  start : ∀ s, ¬ex .transmissionStart → I s → I s.transmissionStart
  complete : ∀ s, I s → I s.transmissionComplete
  admitReply : ∀ s, I s → I s.replyWaitAdmit
  setFeed : ∀ s f p, p.wellFormed = true → I s → I (s.applySettings f p)
  setNotices : ∀ s m x n, m &&& 0x1FFF = m → 1 ≤ x → x ≤ 16 → 1 ≤ n → n ≤ 1000 → I s →
    I (s.applyNoticeSettings m x n)
  clearTarget : ∀ s a b t, s.clearTarget a b = some t → I s → I t
  restartStream : ∀ s i, I s → I (s.onStream i false fun c v => v.restart c)
  acknowledge : ∀ s a, I s → I (s.acknowledge a)
  restart : ∀ s, ¬ex .resetPartRestart → I s → I s.restartPart
  clear : ∀ s, ¬ex .resetPartClear → I s → I s.clearPart
  stage : ∀ s ch l, (∀ e, ch.change = .write e → e.wellFormed = true) → stageChange s.stagingList ch = some l → I s →
    I (s.setStaging l)
  unstage : ∀ s p, I s → I (s.setStaging (s.stagingList.filter p))
  commit : ∀ c s, s.engine.busy = false → (∀ ch ∈ s.stagingList, s.duplicates s.stagingList ch = false) → I s →
    I (acceptCommit c s).state
  idleExpiry : ∀ s, I s → I s.idleExpire
  prepare : ∀ s, I s → I s.prepareComplete
  swap : ∀ s, ¬ex .swap → I s → I s.swap
  sync : ∀ s, I s → I s.syncComplete
  noticeRaise : ∀ s, I s → I s.noticeRaise
  noticeMove : ∀ s, I s → I s.noticeMove
  refill : ∀ s, I s → I s.refillExpiry

variable {I : State → Prop} {ex : Instr → Prop}

theorem Kept.treat (K : Kept I ex) (cls : Bool) (b : Command → State → CommandEffect)
    (hb : ∀ c s, I s → I (b c s).state) (c : Command) (s : State) (h : I s) : I (treatCommand cls b c s) := by
  simp only [treatCommand]
  split
  · rename_i ss _
    split
    · simp only [executeSequenced]
      split
      · exact K.record _ _ _ (hb _ _ h)
      · split
        · exact K.close _ (K.placeReply _ _ (K.record _ _ _ (hb _ _ h)))
        · exact K.placeReply _ _ (K.record _ _ _ (hb _ _ h))
    · split
      · cases ss.cache
        · exact K.placeReply _ _ (K.idle _ h)
        · exact K.placeReply _ _ (K.idle _ h)
      · exact K.placeReply _ _ h
  · split
    · exact K.placeReply _ _ h
    · split
      · exact K.placeReply _ _ (hb _ _ h)
      · exact hb _ _ h

theorem Kept.command (K : Kept I ex) (p : Command → Bool) (g : Command → State → State)
    (hg : ∀ c s, I s → I (g c s)) (s : State) (h : I s) : I (s.onCommand p g) := by
  simp only [State.onCommand]
  split
  · rename_i c rest _ hi
    split
    · exact hg _ _ (K.inbox s c rest hi h)
    · exact h
  · exact h

/-- An entry that the check of a record accepts is well formed (R4, R5, R7, R105). -/
theorem checkRecord_wellFormed (r : List Byte) (e : Entry) (h : checkRecord r = .ok e) : e.wellFormed = true := by
  simp only [checkRecord] at h
  split at h
  · cases h
  · rename_i h1
    split at h
    · cases h
    · split at h
      · cases h
      · rename_i h3
        split at h
        · rename_i h4
          cases h
          simp only [Bool.or_eq_true, not_or, Bool.not_eq_true, Bool.not_eq_false'] at h1
          simp only [Entry.wellFormed, Bool.and_eq_true, h4, true_and]
          exact ⟨by simpa [entryOfRecord] using h1.2, by simpa [entryOfRecord] using h3⟩
        · cases h

theorem Kept.stageEffect (K : Kept I ex) (s : State) (ch : StagedChange)
    (hw : ∀ e, ch.change = .write e → e.wellFormed = true) (h : I s) : I (stageEffect s ch).state := by
  simp only [Machine.stageEffect]
  split
  · rename_i l hl; exact K.stage s ch l hw hl h
  · exact h

/-- Every command outside `ex` keeps a property that survives all that commands do. -/
theorem Kept.exec (K : Kept I ex) (c : Instr) (hx : ¬ex c) (s t : State) (h : I s) (he : exec c s = .next t) :
    I t := by
  have ob : ∀ b : Command → State → CommandEffect, (∀ c s, I s → I (b c s).state) →
      ∀ code s, I s → I (s.openCommand code b) :=
    fun b hb code s h => K.command _ _ (fun c s => K.treat false b hb c s) s h
  have sb : ∀ b : Command → State → CommandEffect, (∀ c s, I s → I (b c s).state) →
      ∀ code s, I s → I (s.sessionCommand code b) :=
    fun b hb code s h => K.command _ _ (fun c s => K.treat true b hb c s) s h
  cases c <;> cases he
  case por => exact K.por _ hx h
  case feedFrameReceived => exact K.feedFrame _ _ _ h
  case feedLinkDown => exact K.linkDown _ _ h
  case feedLinkUp => exact K.linkUp _ _ h
  case windowExpiry => exact K.window _ _ h
  case feedEvent => exact K.feedEvent _ _ h
  case selectorReview => exact K.review _ h
  case holdOffExpiry => exact K.holdOff _ _ h
  case copyTake => exact K.take _ _ h
  case dueExpiry => exact K.due _ _ h
  case deliveryFrameReceived => exact K.deliveryFrame _ _ h
  case deliveryLinkDown => exact K.deliveryDown _ hx h
  case deliveryLinkUp => exact K.deliveryUp _ h
  case transmissionStart => exact K.start _ hx h
  case transmissionComplete => exact K.complete _ h
  case replyWaitAdmit => exact K.admitReply _ h
  case openSession =>
    refine K.command _ _ (fun c s h => ?_) _ h
    simp only [treatOpen]
    split
    · split
      · exact K.placeReply _ _ (K.openSession _ _ (Or.inl rfl) h)
      · exact K.placeReply _ _ h
    · rename_i ss hs
      split
      · split
        · cases ss.cache
          · exact K.placeReply _ _ (K.idle _ h)
          · exact K.placeReply _ _ (K.idle _ h)
        · split
          · exact K.placeReply _ _ (K.openSession _ _ (Or.inr (by simp [State.stagingList, hs])) h)
          · exact K.placeReply _ _ h
      · exact K.placeReply _ _ h
  case closeSession => exact sb _ (fun c s h => by simp only [closeBody]; split <;> exact h) _ _ h
  case status => exact ob _ (fun c s h => by simp only [statusBody]; split <;> exact h) _ _ h
  case readStream => exact ob _ (fun c s h => by simp only [readStreamBody]; split <;> exact h) _ _ h
  case readFeed =>
    exact ob _ (fun c s h => by simp only [readFeedBody]; split <;> [split <;> exact h; exact h]) _ _ h
  case readNotices => exact ob _ (fun c s h => by simp only [readNoticesBody]; split <;> exact h) _ _ h
  case setFeed =>
    refine sb _ (fun c s h => ?_) _ _ h
    simp only [setFeedBody]
    split
    · rename_i f p hp
      refine K.setFeed _ _ _ ?_ h
      simp only [setFeedArgs] at hp
      split at hp
      · split at hp
        · split at hp
          · cases hp; assumption
          · cases hp
        · cases hp
      · cases hp
    · exact h
  case setNotices =>
    refine sb _ (fun c s h => ?_) _ _ h
    simp only [setNoticesBody]
    split
    · rename_i m x n hp
      simp only [setNoticesArgs] at hp
      split at hp
      · rename_i hh; cases hp
        exact K.setNotices _ _ _ _ (by simp [maskRead, BitVec.and_assoc]) hh.2.1 hh.2.2.1 hh.2.2.2.1 hh.2.2.2.2 h
      · cases hp
    · exact h
  case clearCounters =>
    refine sb _ (fun c s h => ?_) _ _ h
    simp only [clearCountersBody]
    split
    · split
      · rename_i a b t ht; exact K.clearTarget _ _ _ _ ht h
      · exact h
    · exact h
  case restartStream =>
    refine sb _ (fun c s h => ?_) _ _ h
    simp only [restartStreamBody]
    split
    · split
      · exact K.restartStream _ _ h
      · exact h
    · exact h
  case ackAlarms =>
    refine sb _ (fun c s h => ?_) _ _ h
    simp only [ackAlarmsBody]
    split
    · split
      · exact K.acknowledge _ _ h
      · exact h
    · exact h
  case resetPartRestart =>
    refine K.command _ _ (fun c s => K.treat true _ (fun c s h => ?_) c s) _ h
    simp only [resetRestartBody]
    split
    · exact K.restart _ hx h
    · exact h
  case resetPartClear => exact K.command _ _ (fun c s => K.treat true _ (fun c s h => K.clear _ hx h) c s) _ h
  case stageWrite =>
    refine sb _ (fun c s h => ?_) _ _ h
    simp only [stageWriteBody]
    split
    · split
      · rename_i e he; exact K.stageEffect _ _ (fun e' h' => by cases h'; exact checkRecord_wellFormed _ _ he) h
      · exact h
    · exact h
  case stageRemove =>
    refine sb _ (fun c s h => ?_) _ _ h
    simp only [stageRemoveBody]
    split
    · exact K.stageEffect _ _ (fun e' h' => by cases h') h
    · exact h
  case unstage =>
    refine sb _ (fun c s h => ?_) _ _ h
    simp only [unstageBody]
    split
    · split
      · exact K.unstage _ _ h
      · exact h
    · exact h
  case commit =>
    refine sb _ (fun c s h => ?_) _ _ h
    simp only [commitBody]
    split
    · split
      · exact h
      · rename_i hb
        split
        · exact h
        · split
          · exact h
          · rename_i hf
            exact K.commit _ _ (by simpa using hb) (by simpa using hf) h
    · exact h
  case unknownCommand => exact K.command _ _ (fun c s => K.treat false _ (fun c s h => h) c s) _ h
  case idleExpiry => exact K.idleExpiry _ h
  case prepareComplete => exact K.prepare _ h
  case swap => exact K.swap _ hx h
  case syncComplete => exact K.sync _ h
  case noticeRaise => exact K.noticeRaise _ h
  case noticeMove => exact K.noticeMove _ h
  case refillExpiry => exact K.refill _ h

/-- Every step keeps a property that survives all that commands do, the tick, and a change of the waiting commands. -/
theorem Kept.step (K : Kept I) (ht : ∀ s, I s → I s.tick) (hq : ∀ s q, I s → I { s with pending := q })
    (s t : State) (h : I s) (he : step s = .next t) : I t := by
  simp only [Machine.step] at he
  split at he
  · cases he; exact ht _ h
  · exact K.exec _ (fun h => h) _ _ (hq _ _ h) he

end Sys2Proof.Machine
end

