-- ==== Sys2Proof/Laws/Release.lean ====
section
/-! SUPPORT. What the shared operations of the merge engine leave, as equations: releases, declarations of loss, holds,
refusals, switches and the closes of events; and buffers freed and usability published outside it. -/

namespace Sys2Proof.Machine

variable (c : StreamCtx) (v : StreamView)

/-! ### Arrivals -/

theorem dist_eq_zero (n s : Seq) : dist n s = 0 ↔ s = n := by
  simp only [dist]
  constructor
  · intro h
    have : s - n = 0 := BitVec.eq_of_toNat_eq (by simpa using h)
    exact (BitVec.sub_eq_iff_eq_add.1 this).trans (by simp)
  · rintro rfl
    simp

theorem StreamView.deliverable_iff (f : Feed) : v.deliverable c f = true ↔ deliverableFrom c.entry v.rt f := by
  simp only [StreamView.deliverable, deliverableFrom]
  cases c.entry.mode <;> simp

/-- The arrival of a copy in a followed stream (R30 to R39). -/
theorem StreamView.arrive_followed (copy : Copy) (n : Seq) (h : v.rt.followed) (hn : v.rt.nes = some n) :
    v.arrive c copy = (v.arriveFollowing c n copy).reexamine c := by
  rcases h with h | h <;> simp only [StreamView.arrive, h, hn]

/-- Without a switch the re-examination does nothing (R74). -/
theorem StreamView.reexamine_unswitched (h : v.switched = false) : v.reexamine c = v := by
  simp only [StreamView.reexamine]
  split
  · rfl
  · simp [h]

/-- With nothing held the re-examination does nothing (R74). -/
theorem StreamView.reexamine_empty (h : v.rt.hold = []) : v.reexamine c = v := by
  simp only [StreamView.reexamine, h]

/-! ### Releases (R27, R31, R116) -/

/-- A release run whose first entry is not NES releases nothing. -/
theorem StreamView.releaseRun_stop (a : Bool) (l : List Copy) (h : ∀ x ∈ l.head?, v.rt.nes ≠ some x.seq) :
    StreamView.releaseRun c a l v = v := by
  cases l with
  | nil => rfl
  | cons x r =>
    simp only [StreamView.releaseRun]
    rw [if_neg]
    intro k
    exact h x rfl k.1

/-! ### Losses, holds and refusals (R22, R26, R28, R35) -/

theorem StreamView.declareLost_eq (n m : Seq) (h : v.rt.nes = some n) (g : n ≠ m) :
    v.declareLost c m = { v with
      rt := { v.rt with
        nes := some m, gapMark := true
        counters := { v.rt.counters with
          gapEvents := satInc v.rt.counters.gapEvents
          lostSequences := satAdd v.rt.counters.lostSequences (m - n).toNat } }
      latch := true
      raised := v.raised ++ [⟨.streamGap, .stream c.slot, c.entry.tag, BitVec.ofNat 16 (m - n).toNat⟩] } := by
  simp only [StreamView.declareLost, h]
  rw [if_neg g]
  simp [StreamView.mapRt, StreamView.count, StreamView.setLatch, StreamView.raise, dist]

theorem StreamView.declareLost_self (n : Seq) (h : v.rt.nes = some n) : v.declareLost c n = v := by
  simp only [StreamView.declareLost, h, if_true]

theorem StreamView.hold_granted (n : Seq) (copy : Copy) (h : Config.holdReserve < v.pool.free) :
    v.hold n copy = { v with
      rt := { v.rt with hold := insertHold n copy v.rt.hold, candidate := none }
      pool := { v.pool with free := v.pool.free - 1 } } := by
  have : v.holdGranted = true := decide_eq_true h
  simp [StreamView.hold, this, StreamView.takeBuffer, StreamView.mapRt, StreamView.clearCandidate]

theorem StreamView.noBufferDrop_eq :
    v.noBufferDrop = { v with
      rt := { v.rt with
        counters := { v.rt.counters with noBufferDrops := satInc v.rt.counters.noBufferDrops } }
      pool := { v.pool with pressure := true }
      raised := v.raised ++ exhaustedNotice v.pool } := by
  by_cases h : v.pool.pressure = true
  · simp only [StreamView.noBufferDrop, StreamView.noteRefusal, Pool.refused, h, exhaustedNotice, if_true]
    simp [StreamView.count, StreamView.mapRt]
    conv_lhs => rw [show v.pool = { v.pool with pressure := true } by rw [← h]]
  · simp only [StreamView.noBufferDrop, StreamView.noteRefusal, Pool.refused, h, exhaustedNotice]
    simp [StreamView.count, StreamView.mapRt]

/-- An entry of NES is inserted at the head when no other entry of NES is held (R33). -/
theorem insertHold_head (n : Seq) (copy : Copy) (l : List Copy) (h : copy.seq = n) (g : ∀ x ∈ l.head?, x.seq ≠ n) :
    insertHold n copy l = copy :: l := by
  cases l with
  | nil => rfl
  | cons x r =>
    simp only [insertHold]
    rw [if_pos]
    rw [(dist_eq_zero n copy.seq).2 h]
    have := (not_congr (dist_eq_zero n x.seq)).2 (g x rfl)
    omega

/-! ### Switches (R73) and closes (R32, R55) -/

theorem StreamView.setActive_switch (q : Selector) (dest : Option Feed) (st : SelectorState) (timer : Option Moment)
    (hq : v.rt.selector = some q) (hne : q.active ≠ dest) :
    v.setActive c dest st timer = { v with
      rt := { v.rt with
        selector := some { q with state := st, holdOff := timer, active := dest, rescueRun := none } }
      raised := v.raised ++
        [⟨.activeSwitch, .stream c.slot, c.entry.tag, feedOrNone q.active ++ feedOrNone dest⟩]
      switched := true } := by
  have ha : v.rt.active = q.active := by simp [Runtime.active, hq]
  simp [StreamView.setActive, ha, hne, StreamView.mapSelector, StreamView.mapRt, hq, StreamView.raise]

theorem StreamView.setActive_stay (q : Selector) (dest : Option Feed) (st : SelectorState) (timer : Option Moment)
    (hq : v.rt.selector = some q) (he : q.active = dest) :
    v.setActive c dest st timer =
      { v with rt := { v.rt with selector := some { q with state := st, holdOff := timer } } } := by
  have ha : v.rt.active = q.active := by simp [Runtime.active, hq]
  simp [StreamView.setActive, ha, he, StreamView.mapSelector, StreamView.mapRt, hq]

theorem StreamView.closeArrival_eq :
    v.closeArrival c = { v with
      rt := { v.rt with
        due := some (after c.now (c.entry.period + c.entry.slack)), candidate := none
        mergeState := if v.rt.mergeState = .bridging then .tracking else v.rt.mergeState }
      raised := v.raised ++
        if v.rt.mergeState = .bridging then [⟨.streamRecovered, .stream c.slot, c.entry.tag, 0⟩] else [] } := by
  by_cases h : v.rt.mergeState = .bridging
  · simp [StreamView.closeArrival, StreamView.arm, StreamView.recover, StreamView.mapRt, StreamView.raise, h]
  · simp [StreamView.closeArrival, StreamView.arm, StreamView.recover, StreamView.mapRt, h]

theorem StreamView.closeBridging_eq (x : Moment) :
    v.closeBridging c x = { v with
      rt := { v.rt with
        due := some (after x c.entry.period)
        mergeState := if v.rt.mergeState = .tracking then .bridging else v.rt.mergeState }
      latch := if v.rt.mergeState = .tracking then true else v.latch
      raised := v.raised ++
        if v.rt.mergeState = .tracking then [⟨.streamBridging, .stream c.slot, c.entry.tag, 0⟩] else [] } := by
  by_cases h : v.rt.mergeState = .tracking
  · simp [StreamView.closeBridging, h, StreamView.arm, StreamView.mapRt, StreamView.setLatch, StreamView.raise]
  · simp [StreamView.closeBridging, h, StreamView.arm, StreamView.mapRt]

/-! ### Buffers and usability outside the merge engine (R88, R110) -/

theorem State.freeBuffers_eq (s : State) (n : Nat) (h : n = 0 → s.pool.pressure = true → s.pool.free < 32) :
    s.freeBuffers n = { s with
      pool := {
        free := s.pool.free + n
        pressure := if s.pool.pressure = true ∧ 32 ≤ s.pool.free + n then false else s.pool.pressure }
      notices := s.notices.raising
        (if s.pool.pressure = true ∧ 32 ≤ s.pool.free + n then [⟨.poolRecovered, .part, 0xFFFF, 0⟩] else []) } := by
  by_cases h0 : n = 0
  · subst h0
    have : ¬(s.pool.pressure = true ∧ 32 ≤ s.pool.free) := fun ⟨a, b⟩ => absurd (h rfl a) (by omega)
    simp only [State.freeBuffers, if_true, Nat.add_zero, this, if_false, NoticeUnit.raising, List.append_nil]
  · simp only [State.freeBuffers, if_neg h0, State.testPool, Pool.tested]
    by_cases hq : s.pool.pressure = true ∧ 32 ≤ s.pool.free + n
    · simp [hq, State.raiseAll, partNotice, Config.managementTag, Config.pressureClear, NoticeUnit.raising]
    · have : ¬((s.pool.pressure && decide (Config.pressureClear ≤ s.pool.free + n)) = true) := by
        rw [Bool.and_eq_true, decide_eq_true_eq]
        exact hq
      simp only [if_neg this, if_neg hq, State.raiseAll, List.append_nil, NoticeUnit.raising]

theorem State.publish_same (s : State) (f : Feed) (m : Monitor) (cause : UnusableCause)
    (h : (rd s.monitors f).usable = m.usability) :
    s.publish f m cause = s.setMonitor f { m with usable := m.usability } := by
  simp only [State.publish, if_pos h]

theorem State.publish_up (s : State) (f : Feed) (m : Monitor) (cause : UnusableCause)
    (h : (rd s.monitors f).usable = false) (g : m.usability = true) :
    s.publish f m cause = { s.setMonitor f { m with usable := true } with
      feedEvents := wr s.feedEvents f (rd s.feedEvents f + 1)
      notices := s.notices.raising [⟨.feedUsable, .feed f, 0xFFFF, 0⟩] } := by
  simp only [State.publish, h, g]
  simp [State.setMonitor, State.raise, State.raiseAll, NoticeUnit.raising, Config.managementTag]

theorem State.publish_down (s : State) (f : Feed) (m : Monitor) (cause : UnusableCause)
    (h : (rd s.monitors f).usable = true) (g : m.usability = false) :
    s.publish f m cause = { s.setMonitor f { m with usable := false } with
      feedEvents := wr s.feedEvents f (rd s.feedEvents f + 1)
      feedLatches := wr s.feedLatches f true
      notices := s.notices.raising [⟨.feedUnusable, .feed f, 0xFFFF, cause.code ++ (0 : Byte)⟩] } := by
  simp only [State.publish, h, g]
  simp [State.setMonitor, State.raise, State.raiseAll, NoticeUnit.raising, Config.managementTag, State.setFeedLatch]

/-! ### The pool (R109, R110, R116) -/

theorem satAdd_zero (c : Counter) : satAdd c 0 = c := by
  have : c.toNat ≤ 4294967295 := Nat.le_of_lt_succ c.isLt
  simp [satAdd, Nat.min_eq_left this]

theorem satAdd_satAdd (c : Counter) (j k : Nat) : satAdd (satAdd c j) k = satAdd c (j + k) := by
  simp only [satAdd, BitVec.toNat_ofNat]
  congr 1
  rw [Nat.mod_eq_of_lt (by omega)]
  omega

/-- The test of the pressure flag after a free (R110). -/
theorem Pool.tested_eq (p : Pool) : p.tested =
    ({ free := p.free, pressure := if p.pressure = true ∧ 32 ≤ p.free then false else p.pressure },
      poolRecovered (p.pressure = true ∧ 32 ≤ p.free)) := by
  by_cases h : p.pressure = true ∧ 32 ≤ p.free
  · have : (p.pressure && decide (Config.pressureClear ≤ p.free)) = true := by
      rw [Bool.and_eq_true, decide_eq_true_eq]; exact h
    simp only [Pool.tested, if_pos this, if_pos h, poolRecovered]
  · have : ¬(p.pressure && decide (Config.pressureClear ≤ p.free)) = true := by
      rw [Bool.and_eq_true, decide_eq_true_eq]; exact h
    simp only [Pool.tested, if_neg this, if_neg h, poolRecovered]

/-- The pool after frees in an event that tests the flag at each free, or at its end (`deferTest`). -/
def Pool.freedIn (b : Bool) (p : Pool) (n : Nat) : Pool := if b then { p with free := p.free + n } else p.freed n

/-- The pool as the notices of such an event see it: with the test at the end of the event, no free recovers it. -/
def Pool.noted (b : Bool) (p : Pool) : Pool := if b then { p with pressure := false } else p

theorem Pool.freed_zero (p : Pool) : p.freed 0 = p := by simp [Pool.freed]

theorem Pool.freedIn_zero (b : Bool) (p : Pool) : p.freedIn b 0 = p := by
  cases b <;> simp [Pool.freedIn, Pool.freed_zero]

theorem Pool.freedNotice_zero (p : Pool) : p.freedNotice 0 = [] := by simp [Pool.freedNotice, poolRecovered]

/-- Frees one after another leave the pool that they leave together, and raise POOL_RECOVERED as they do together. -/
theorem Pool.freed_freed (p : Pool) (j k : Nat) : (p.freed j).freed k = p.freed (j + k) ∧
    p.freedNotice j ++ (p.freed j).freedNotice k = p.freedNotice (j + k) := by
  obtain ⟨f, q⟩ := p
  rcases Nat.eq_zero_or_pos j with rfl | hj
  · simp [Pool.freed_zero, Pool.freedNotice_zero]
  cases q
  · simp [Pool.freed, Pool.freedNotice, poolRecovered, Nat.add_assoc]
  simp only [Pool.freed, Pool.freedNotice, poolRecovered, Nat.add_assoc, Nat.succ_le_iff, hj, true_and, Nat.add_pos_left]
  by_cases h1 : 31 < f + j
  · have h2 : 31 < f + (j + k) := by omega
    simp [h1, h2]
  · by_cases h2 : 31 < f + (j + k)
    · have : 0 < k := by omega
      simp [h1, h2, this]
    · simp [h1, h2]

theorem Pool.freedIn_freedIn (b : Bool) (p : Pool) (j k : Nat) : (p.freedIn b j).freedIn b k = p.freedIn b (j + k) := by
  cases b
  · exact (p.freed_freed j k).1
  · simp [Pool.freedIn, Nat.add_assoc]

theorem Pool.noted_freed (b : Bool) (p : Pool) (n : Nat) : (p.noted b).freed n = (p.freedIn b n).noted b := by
  cases b <;> simp [Pool.noted, Pool.freedIn, Pool.freed]

theorem State.undelivered_add (s : State) (j k : Nat) : s.undelivered (j + k) = s.undelivered j + s.undelivered k := by
  simp only [State.undelivered]; split <;> rfl

theorem State.handed_append (s : State) (a b : List Frame) : s.handed (a ++ b) = s.handed a ++ s.handed b := by
  simp only [State.handed]; split <;> simp

/-! ### Releases and runs (R25, R27, R31, R36, R72, R116) -/

section Runs

variable (s : State) (i : Slot) (e : Entry) (b : Bool)

theorem State.releasing_active (r : Runtime) (copy : Copy) : (s.releasing e r copy).active = (s.reported e r copy.feed).bind (·.active) := rfl

theorem State.reported_deliverable (r : Runtime) (f : Feed) (h : deliverableFrom e r f) :
    s.reported e r f = r.selector.map fun q => { q with rescueRun := none } := if_pos h

theorem State.reported_active (r : Runtime) (f : Feed) (h : deliverableFrom e r f) :
    (s.reported e r f).bind (·.active) = r.active := by
  rw [s.reported_deliverable e r f h, Runtime.active]
  cases r.selector <;> rfl

/-- The table of R72 is the settled state under feed `g`. -/
theorem State.rescueRow_eq (p : SelectionPart) (g : Feed) (timer : Option Moment) :
    (s.streamCtx i e b).settled p ((s.streamCtx i e b).best != some g) timer = s.rescueRow e p g timer := by
  have hb : (s.streamCtx i e b).best = s.bestUsable e := rfl
  simp only [StreamCtx.settled, State.rescueRow, hb]
  by_cases h : s.bestUsable e = some g
  · simp [h]
  · rw [if_neg h]
    have : (s.bestUsable e != some g) = true := by simpa using h
    rw [this]
    cases hr : p.revertive
    · simp
    · cases timer <;> simp [StreamCtx.holdOffExpiry, State.streamCtx, after]

/-- The report of a rescue (R72). -/
theorem StreamView.reportRescue_eq (p : SelectionPart) (q : Selector) (g : Feed) (hm : e.mode = .preferred p)
    (hq : v.rt.selector = some q) (hd : q.active ≠ some g) :
    v.reportRescue (s.streamCtx i e b) g = { v with
      rt := { v.rt with selector := some (s.rescued e p g q) }
      raised := v.raised ++ switchNotice i e q.active (s.rescued e p g q).active
      switched := v.switched || !(switchNotice i e q.active (s.rescued e p g q).active).isEmpty } := by
  have hm' : (s.streamCtx i e b).entry.mode = .preferred p := hm
  have hu : (s.streamCtx i e b).usable g = (rd s.monitors g).usable := rfl
  have hk : RescueRun.next q.rescueRun g = { feed := g, count := rescueCount q.rescueRun g } := by
    cases hr : q.rescueRun with
    | none => rfl
    | some run =>
      simp only [RescueRun.next, rescueCount]
      by_cases y : run.feed = g <;> simp [y]
  simp only [StreamView.reportRescue, hm', hq, hu, State.rescued]
  cases huse : (rd s.monitors g).usable
  · simp only [Bool.not_false, if_true, switchNotice, List.append_nil, List.isEmpty_nil, Bool.not_true, Bool.or_false]
    rw [← hq]
  · rw [if_neg (by simp), hk]
    by_cases hc : rescueCount q.rescueRun g = p.rescueThreshold
    · rw [if_pos hc, if_neg (by simp), if_pos hc]
      simp only [StreamView.rescueSwitch, hq, Option.bind_some, State.rescueRow_eq]
      rw [StreamView.setActive_switch _ _ q _ _ _ hq hd]
      simp [switchNotice, hd, streamNotice, State.streamCtx]
    · rw [if_neg hc, if_neg (by simp), if_neg hc]
      simp [StreamView.mapSelector, StreamView.mapRt, hq, switchNotice, hk]

theorem State.releasing_nes (r : Runtime) (copy : Copy) : (s.releasing e r copy).nes = some (copy.seq + 1) := rfl

/-- The switch of a report is seen in the active feed. -/
theorem switchNotice_isEmpty (x y : Option Feed) : (switchNotice i e x y).isEmpty = decide (x = y) := by
  by_cases h : x = y <;> simp [switchNotice, h]

/-- A released frame handed to the delivery port (R111, R116). -/
theorem StreamView.deliver_eq (f : Frame) : v.deliver (s.streamCtx i e b) f = { v with
    rt := { v.rt with counters := { v.rt.counters with
      undeliverable := satAdd v.rt.counters.undeliverable (s.undelivered 1) } }
    pool := v.pool.freedIn b (s.undelivered 1)
    dataQueue := v.dataQueue ++ s.handed [f]
    raised := v.raised ++ (v.pool.noted b).freedNotice (s.undelivered 1) } := by
  have hc : (s.streamCtx i e b).linkUp = s.delivery.linkUp := rfl
  have hb : (s.streamCtx i e b).deferTest = b := rfl
  cases hl : s.delivery.linkUp
  · simp only [StreamView.deliver, hc, hl, StreamView.freeBuffers, hb, State.undelivered, State.handed]
    cases b
    · simp [StreamView.count, StreamView.mapRt, Pool.tested_eq, Pool.freedIn, Pool.freed, Pool.noted, Pool.freedNotice, satInc]
    · simp [StreamView.count, StreamView.mapRt, Pool.freedIn, Pool.noted, Pool.freedNotice, poolRecovered, satInc]
  · simp only [StreamView.deliver, hc, hl, State.undelivered, State.handed, if_true, satAdd_zero, Pool.freedIn_zero,
      Pool.freedNotice_zero, List.append_nil]

/-- The release of a copy (R27, R72, R116). -/
theorem StreamView.release_eq (copy : Copy) (resync seek : Bool) :
    v.release (s.streamCtx i e b) copy resync seek = { v with
      rt := { s.releasing e v.rt copy with nes := v.rt.nes }
      pool := v.pool.freedIn b (s.undelivered 1)
      dataQueue := v.dataQueue ++ s.handed [copyFrame copy (rescues e v.rt copy.feed) v.rt.gapMark resync seek]
      raised := v.raised ++ ((v.pool.noted b).freedNotice (s.undelivered 1) ++
        switchNotice i e v.rt.active (s.releasing e v.rt copy).active)
      released := true
      switched := v.switched || decide (v.rt.active ≠ (s.releasing e v.rt copy).active) } := by
  have sw : ∀ x y : Option Feed, decide (x ≠ y) = !(switchNotice i e x y).isEmpty := by
    intro x y; rw [switchNotice_isEmpty]; simp
  by_cases hd : deliverableFrom e v.rt copy.feed
  · have hd' : v.deliverable (s.streamCtx i e b) copy.feed = true := (StreamView.deliverable_iff _ _ _).2 hd
    have hr : rescues e v.rt copy.feed = false := by simp [rescues, hd]
    have ha : (s.releasing e v.rt copy).active = v.rt.active := s.reported_active e _ _ hd
    simp only [StreamView.release, hd', Bool.not_true, StreamView.deliver_eq, ha]
    simp [State.releasing, s.reported_deliverable e _ _ hd, hr, switchNotice, StreamView.mapSelector, StreamView.mapRt,
      StreamView.count]
  · have hd' : v.deliverable (s.streamCtx i e b) copy.feed = false := by
      rw [Bool.eq_false_iff, Ne, StreamView.deliverable_iff]; exact hd
    have hr : rescues e v.rt copy.feed = true := by simp [rescues, hd]
    have hrep : s.reported e v.rt copy.feed = match e.mode with
      | .first => v.rt.selector
      | .preferred p => v.rt.selector.map fun q => s.rescued e p copy.feed q := if_neg hd
    simp only [StreamView.release, hd', Bool.not_false, if_true, StreamView.deliver_eq]
    cases hm : e.mode with
    | first => exact absurd (Or.inl hm) hd
    | preferred p =>
      rw [hm] at hrep
      cases hq : v.rt.selector with
      | none =>
        rw [hq] at hrep
        have hm' : (s.streamCtx i e b).entry.mode = .preferred p := hm
        have ha : v.rt.active = none := by simp [Runtime.active, hq]
        have hb : (s.releasing e v.rt copy).active = none := by simp [State.releasing_active, hrep]
        simp only [StreamView.reportRescue, hm', StreamView.count, StreamView.mapRt, hq, ha, hb]
        simp [switchNotice, State.releasing, hr, hrep, Option.map]
      | some q =>
        rw [hq] at hrep
        have ha : v.rt.active = q.active := by simp [Runtime.active, hq]
        have hne : q.active ≠ some copy.feed := fun k => hd (Or.inr (ha.trans k))
        have hb : (s.releasing e v.rt copy).active = (s.rescued e p copy.feed q).active := by
          simp [State.releasing_active, hrep]
        rw [StreamView.reportRescue_eq _ s i e b p q copy.feed hm (by simpa [StreamView.count, StreamView.mapRt] using hq) hne,
          ha, hb, sw]
        simp [StreamView.count, StreamView.mapRt, State.releasing, hr, hrep, Option.map]

/-! ### Runs -/

theorem State.releasingAll_cons (r : Runtime) (h : Copy) (t : List Copy) :
    s.releasingAll e r (h :: t) = s.releasingAll e (s.releasing e r h) t := rfl

/-- Releases leave the hold list to their caller: they read and keep every field but those of R27. -/
theorem State.releasingAll_hold (l : List Copy) (r : Runtime) (hold : List Copy) :
    s.releasingAll e { r with hold := hold } l = { s.releasingAll e r l with hold := hold } := by
  induction l generalizing r with
  | nil => rfl
  | cons h t ih => rw [releasingAll_cons, releasingAll_cons, ← ih]; rfl

theorem State.releaseFrames_hold (l : List Copy) (r : Runtime) (hold : List Copy) :
    s.releaseFrames e { r with hold := hold } l = s.releaseFrames e r l := by
  induction l generalizing r with
  | nil => rfl
  | cons h t ih => simp only [releaseFrames]; rw [← ih (s.releasing e r h)]; rfl

theorem State.releaseNotices_hold (l : List Copy) (p : Pool) (r : Runtime) (hold : List Copy) :
    s.releaseNotices i e p { r with hold := hold } l = s.releaseNotices i e p r l := by
  induction l generalizing p r with
  | nil => rfl
  | cons h t ih => simp only [releaseNotices]; rw [← ih _ (s.releasing e r h)]; rfl

/-- Copies released in order change the active feed at some point (R72). -/
def State.releasesSwitch (s : State) (e : Entry) : Runtime → List Copy → Bool
  | _, [] => false
  | r, h :: t => decide (r.active ≠ (s.releasing e r h).active) || s.releasesSwitch e (s.releasing e r h) t

theorem State.releasesSwitch_hold (l : List Copy) (r : Runtime) (hold : List Copy) :
    s.releasesSwitch e { r with hold := hold } l = s.releasesSwitch e r l := by
  induction l generalizing r with
  | nil => rfl
  | cons h t ih => simp only [releasesSwitch]; rw [← ih (s.releasing e r h)]; rfl

theorem releaseSplit_cons {ok : Feed → Prop} {n : Seq} {h : Copy} {t left hold : List Copy}
    (hs : releaseSplit ok n hold (h :: t) left) :
    hold = h :: (t ++ left) ∧ h.seq = n ∧ ok h.feed ∧ releaseSplit ok (n + 1) (t ++ left) t left := by
  obtain ⟨h1, h2, h3, h4⟩ := hs
  have step : ∀ k : Nat, n + BitVec.ofNat 16 (k + 1) = n + 1 + BitVec.ofNat 16 k := by
    intro k
    rw [BitVec.add_assoc, BitVec.add_comm 1, BitVec.ofNat_add]
    rfl
  simp only [List.map_cons, List.length_cons, List.range_succ_eq_map, List.cons.injEq, List.map_map] at h2
  refine ⟨h1, by simpa using h2.1, h3 h (List.mem_cons_self ..), rfl, ?_, fun x hx => h3 x (List.mem_cons_of_mem _ hx),
    fun x hx => ?_⟩
  · rw [h2.2]
    exact List.map_congr_left fun k _ => step k
  · rw [← step]
    exact h4 x hx

/-- The release run, in its ordinary form over the deliverable heads, or in its second form over all heads (R31, R36,
R51). -/
theorem StreamView.releaseRun_eq (any : Bool) (ok : Feed → Prop) (n : Seq) (run left : List Copy)
    (hn : v.rt.nes = some n) (hs : releaseSplit ok n v.rt.hold run left)
    (ho : if any = true then ∀ f, ok f else ∀ f, ok f ↔ deliverableFrom e v.rt f) :
    v.releaseRun (s.streamCtx i e b) any v.rt.hold = { v with
      rt := { s.releasingAll e v.rt run with hold := left }
      pool := v.pool.freedIn b (s.undelivered run.length)
      dataQueue := v.dataQueue ++ s.releaseFrames e v.rt run
      raised := v.raised ++ s.releaseNotices i e (v.pool.noted b) v.rt run
      released := v.released || !run.isEmpty
      switched := v.switched || s.releasesSwitch e v.rt run } := by
  induction run generalizing v n with
  | nil =>
    obtain ⟨h1, -, -, h4⟩ := hs
    have : v.releaseRun (s.streamCtx i e b) any v.rt.hold = v := by
      cases hh : v.rt.hold with
      | nil => rfl
      | cons x t =>
        simp only [StreamView.releaseRun, hn]
        rw [if_neg]
        rintro ⟨k, g⟩
        have hx := h4 x (by rw [List.nil_append] at h1; rw [← h1, hh]; rfl)
        refine hx ⟨by simpa using (Option.some.inj k).symm, ?_⟩
        cases any
        · rw [if_neg (by simp)] at ho
          exact (ho _).2 ((StreamView.deliverable_iff _ _ _).1 (g.resolve_left (by simp)))
        · rw [if_pos rfl] at ho
          exact ho _
    rw [this]
    have u0 : s.undelivered 0 = 0 := by simp [State.undelivered]
    simp only [List.nil_append] at h1
    simp [State.releasingAll, State.releaseFrames, State.releaseNotices, State.releasesSwitch, u0, Pool.freedIn_zero, ← h1]
  | cons h t ih =>
    obtain ⟨h1, h2, h3, h4⟩ := releaseSplit_cons hs
    rw [h1]
    simp only [StreamView.releaseRun]
    have hg : any = true ∨ v.deliverable (s.streamCtx i e b) h.feed = true := by
      cases any
      · rw [if_neg (by simp)] at ho
        exact Or.inr ((StreamView.deliverable_iff _ _ _).2 ((ho _).1 h3))
      · exact Or.inl rfl
    rw [if_pos ⟨by rw [hn, h2], hg⟩]
    · rw [StreamView.release_eq _ s i e b h false false]
      set w : StreamView := { v with
        rt := { s.releasing e v.rt h with hold := t ++ left }
        pool := v.pool.freedIn b (s.undelivered 1)
        dataQueue := v.dataQueue ++ s.handed [copyFrame h (rescues e v.rt h.feed) v.rt.gapMark false false]
        raised := v.raised ++ ((v.pool.noted b).freedNotice (s.undelivered 1) ++
          switchNotice i e v.rt.active (s.releasing e v.rt h).active)
        released := true
        switched := v.switched || decide (v.rt.active ≠ (s.releasing e v.rt h).active) } with hw
      have hr : ({ s.releasing e v.rt h with hold := t ++ left, nes := v.rt.nes.map (· + 1) } : Runtime) =
          { s.releasing e v.rt h with hold := t ++ left } := by
        rw [hn, Option.map_some, ← h2]; rfl
      refine (congrArg (fun r : Runtime => StreamView.releaseRun (s.streamCtx i e b) any (t ++ left) { w with rt := r }) hr).trans ?_
      change w.releaseRun (s.streamCtx i e b) any (t ++ left) = _
      have hwn : w.rt.nes = some (n + 1) := by rw [← h2]; rfl
      have key := ih w (n + 1) hwn (by exact h4) ?_
      · rw [show w.rt.hold = t ++ left from rfl] at key
        rw [key]
        simp only [hw, State.releasingAll_hold, State.releaseFrames_hold, State.releaseNotices_hold,
          State.releasesSwitch_hold, State.releasingAll_cons, State.releaseFrames, State.releaseNotices,
          State.releasesSwitch, ← Pool.noted_freed, Pool.freedIn_freedIn, ← State.undelivered_add, List.length_cons]
        simp [Bool.or_assoc, Nat.add_comm 1]
      · cases any
        · rw [if_neg (by simp)] at ho ⊢
          intro f
          rw [ho]
          have : w.rt.active = v.rt.active := s.reported_active e _ _ ((ho _).1 h3)
          simp only [deliverableFrom, this]
        · exact ho

theorem rescues_deliverable (r : Runtime) (f : Feed) (h : deliverableFrom e r f) : rescues e r f = false := by
  simp [rescues, h]

/-- The release of a deliverable copy (R27). -/
theorem State.releasing_deliverable (r : Runtime) (copy : Copy) (h : deliverableFrom e r copy.feed) :
    s.releasing e r copy = { r with
      nes := some (copy.seq + 1)
      placeholderRun := 0
      gapMark := false
      selector := r.selector.map fun q => { q with rescueRun := none }
      counters := { r.counters with
        delivered := satInc r.counters.delivered
        undeliverable := satAdd r.counters.undeliverable (s.undelivered 1) } } := by
  simp only [State.releasing, s.reported_deliverable e r _ h, rescues_deliverable e r _ h, Bool.false_eq_true, if_false]

/-- Releases from the active feed, once the gap mark and the runs are cleared, only pass NES on and are counted, and free
their buffers while the delivery link is down (R27, R116). -/
theorem State.releasingAll_deliverable (run : List Copy) (p : Pool) (r : Runtime) (n : Seq)
    (hd : ∀ c ∈ run, deliverableFrom e r c.feed) (hg : r.gapMark = false) (hp : r.placeholderRun = 0)
    (hs : r.selector.map (fun q => { q with rescueRun := none }) = r.selector) (hn : r.nes = some n)
    (hq : run.map (·.seq) = (List.range run.length).map fun k => n + BitVec.ofNat 16 k) :
    s.releasingAll e r run = { r with
        nes := some (n + BitVec.ofNat 16 run.length)
        counters := { r.counters with
          delivered := satAdd r.counters.delivered run.length
          undeliverable := satAdd r.counters.undeliverable (s.undelivered run.length) } } ∧
      s.releaseFrames e r run = s.handed (run.map fun h => copyFrame h false false false false) ∧
      s.releaseNotices i e p r run = p.freedNotice (s.undelivered run.length) ∧ s.releasesSwitch e r run = false := by
  have u0 : s.undelivered 0 = 0 := by simp [State.undelivered]
  induction run generalizing p r n with
  | nil =>
    refine ⟨?_, by simp [State.releaseFrames, State.handed], by simp [State.releaseNotices, u0, Pool.freedNotice_zero], rfl⟩
    simp only [List.length_nil, satAdd_zero, u0]
    rw [show n + BitVec.ofNat 16 0 = n by simp, ← hn]
    rfl
  | cons h t ih =>
    have hsplit : releaseSplit (fun _ => True) n (h :: t) (h :: t) [] := ⟨(List.append_nil _).symm, hq, fun _ _ => trivial, by simp⟩
    obtain ⟨-, h2, -, -, h4, -, -⟩ := releaseSplit_cons hsplit
    have dh : deliverableFrom e r h.feed := hd h (List.mem_cons_self ..)
    have hr : s.releasing e r h = { r with
        nes := some (n + 1)
        counters := { r.counters with
          delivered := satInc r.counters.delivered
          undeliverable := satAdd r.counters.undeliverable (s.undelivered 1) } } := by
      rw [s.releasing_deliverable e r h dh]
      simp [hs, hg, hp, h2]
    obtain ⟨a, b, c, d⟩ := ih (p.freed (s.undelivered 1)) (s.releasing e r h) (n + 1)
      (fun x hx => by rw [hr]; exact hd x (List.mem_cons_of_mem _ hx)) (by rw [hr]; exact hg) (by rw [hr]; exact hp)
      (by rw [hr]; exact hs) (by rw [hr]) h4
    refine ⟨?_, ?_, ?_, ?_⟩
    · rw [releasingAll_cons, a, hr]
      simp only [satInc, satAdd_satAdd, List.length_cons, BitVec.add_assoc, ← State.undelivered_add]
      rw [Nat.add_comm 1, show (1 : Seq) + BitVec.ofNat 16 t.length = BitVec.ofNat 16 (t.length + 1) by
        rw [BitVec.add_comm, BitVec.ofNat_add]; rfl]
    · rw [State.releaseFrames, b, rescues_deliverable e r _ dh, hg, ← State.handed_append]; rfl
    · have : (s.releasing e r h).active = r.active := s.reported_active e _ _ dh
      rw [State.releaseNotices, c, this]
      simp only [switchNotice, if_true, List.append_nil, (Pool.freed_freed _ _ _).2, ← State.undelivered_add,
        List.length_cons, Nat.add_comm 1]
    · rw [State.releasesSwitch, d, hr]
      simp [Runtime.active]

/-- The copy of NES released on a granted claim, with the ordinary release run behind it (R30, R37). -/
theorem StreamView.releaseNext_eq (copy : Copy) (run left : List Copy)
    (hn : v.rt.nes = some copy.seq) (hf : 1 ≤ v.pool.free)
    (hs : releaseSplit (deliverableFrom e (s.releasing e v.rt copy)) (copy.seq + 1) v.rt.hold run left) :
    v.releaseNext (s.streamCtx i e b) copy = { v with
      rt := { s.releasingAll e v.rt (copy :: run) with hold := left }
      pool := v.pool.claimed.freedIn b (s.undelivered (run.length + 1))
      dataQueue := v.dataQueue ++ s.releaseFrames e v.rt (copy :: run)
      raised := v.raised ++ s.releaseNotices i e (v.pool.claimed.noted b) v.rt (copy :: run)
      released := true
      switched := v.switched || s.releasesSwitch e v.rt (copy :: run) } := by
  have g : v.releaseGranted = true := decide_eq_true hf
  rw [StreamView.releaseNext, if_pos g, StreamView.release_eq _ s i e b copy false false]
  set w : StreamView := { v with
    rt := s.releasing e v.rt copy
    pool := v.pool.claimed.freedIn b (s.undelivered 1)
    dataQueue := v.dataQueue ++ s.handed [copyFrame copy (rescues e v.rt copy.feed) v.rt.gapMark false false]
    raised := v.raised ++ ((v.pool.claimed.noted b).freedNotice (s.undelivered 1) ++
      switchNotice i e v.rt.active (s.releasing e v.rt copy).active)
    released := true
    switched := v.switched || decide (v.rt.active ≠ (s.releasing e v.rt copy).active) } with hw
  have hr : ({ s.releasing e v.rt copy with nes := v.rt.nes.map (· + 1) } : Runtime) = s.releasing e v.rt copy := by
    rw [hn, Option.map_some]; rfl
  refine (congrArg (fun r : Runtime => StreamView.releaseRun (s.streamCtx i e b) false r.hold { w with rt := r }) hr).trans ?_
  have key := w.releaseRun_eq s i e b false _ (copy.seq + 1) run left rfl hs (by
    rw [if_neg (by simp)]; exact fun f => Iff.rfl)
  refine Eq.trans key ?_
  simp only [hw, State.releasingAll_cons, State.releaseFrames, State.releaseNotices, State.releasesSwitch,
    List.append_assoc, Bool.true_or, Bool.or_assoc, ← Pool.noted_freed, Pool.freedIn_freedIn, ← State.undelivered_add,
    Nat.add_comm 1]

/-- The sequences from NES up to a mark declared lost, where there are any (R28). -/
theorem StreamView.declareLost_losing (n m : Seq) (h : v.rt.nes = some n) :
    v.declareLost (s.streamCtx i e b) m = { v with
      rt := v.rt.losing n m
      latch := if n = m then v.latch else true
      raised := v.raised ++ gapNotices i e n m } := by
  by_cases g : n = m
  · subst g
    rw [StreamView.declareLost_self _ v n h]
    simp [Runtime.losing, gapNotices]
  · have hd : BitVec.ofNat 16 (m - n).toNat = m - n := by simp only [BitVec.ofNat_toNat, BitVec.setWidth_eq]
    rw [StreamView.declareLost_eq _ v n m h g, hd]
    simp [Runtime.losing, gapNotices, g, streamNotice, State.streamCtx]

end Runs

end Sys2Proof.Machine
end

