-- ==== Sys2Proof/Laws/Review.lean ====
section
/-! SUPPORT. What a review, a re-examination and a retune leave, as equations on the view of a stream (R69, R70, R74, R75,
R154), and the pressure flag after its test (R110). -/

namespace Sys2Proof.Machine

variable (s : State) (i : Slot) (e : Entry) (b : Bool)

/-! ### Runs of copies from the active feed -/

/-- A release run leaves the merge state alone (R27). -/
theorem State.releasingAll_mergeState (run : List Copy) (r : Runtime) :
    (s.releasingAll e r run).mergeState = r.mergeState := by
  induction run generalizing r with
  | nil => rfl
  | cons x t ih => rw [State.releasingAll_cons, ih]; rfl

/-- NES after a release run stands behind the run (R27). -/
theorem State.releasingAll_nes (run : List Copy) (r : Runtime) (m : Seq) (h : r.nes = some m)
    (hq : run.map (·.seq) = (List.range run.length).map fun k => m + BitVec.ofNat 16 k) :
    (s.releasingAll e r run).nes = some (m + BitVec.ofNat 16 run.length) := by
  induction run generalizing r m with
  | nil => simpa [State.releasingAll] using h
  | cons x t ih =>
    obtain ⟨-, h2, -, -, h4, -, -⟩ := releaseSplit_cons
      (show releaseSplit (fun _ => True) m (x :: t) (x :: t) [] from
        ⟨(List.append_nil _).symm, hq, fun _ _ => trivial, by simp⟩)
    rw [State.releasingAll_cons, ih (s.releasing e r x) (m + 1) (by rw [← h2]; rfl) h4, BitVec.add_assoc,
      List.length_cons]
    congr 2
    rw [BitVec.add_comm, BitVec.ofNat_add]; rfl

/-! ### The re-examination (R74) -/

/-- The close of an arrival event, as the record and the notice it leaves (R32). -/
theorem StreamView.closeArrival_closed (v : StreamView) : v.closeArrival (s.streamCtx i e b) = { v with
    rt := v.rt.closed (s.elapsed + (e.period + e.slack))
    raised := v.raised ++ recoveredNotice i e v.rt } := by
  rw [StreamView.closeArrival_eq]; rfl

/-- The re-examination does nothing when the head is not the next sequence from a deliverable feed. -/
theorem StreamView.reexamine_kept (c : StreamCtx) (v : StreamView)
    (h : ∀ x ∈ v.rt.hold.head?, ¬(v.rt.nes = some x.seq ∧ v.deliverable c x.feed = true)) : v.reexamine c = v := by
  simp only [StreamView.reexamine]
  split
  · rfl
  · rename_i y t hy
    rw [if_neg]
    rintro ⟨-, k⟩
    exact h y (by rw [hy]; rfl) k

/-- The re-examination after a switch to `dest` releases the held copies of `dest` that follow on from NES, and closes as
an arrival does when there is one. -/
theorem StreamView.reexamine_eq (p : SelectionPart) (z : StreamView) (dest : Option Feed) (run left : List Copy)
    (hm : e.mode = .preferred p) (hsw : z.switched = true) (hd : z.rt.active = dest)
    (hr : reexamined z.rt dest run left) :
    z.reexamine (s.streamCtx i e b) = { z with
      rt := s.reexamine e z.rt run left
      pool := z.pool.freedIn b (s.undelivered run.length)
      dataQueue := z.dataQueue ++ s.releaseFrames e z.rt run
      raised := z.raised ++ (s.releaseNotices i e (z.pool.noted b) z.rt run ++
        if run = [] then [] else recoveredNotice i e z.rt)
      released := z.released || !run.isEmpty
      switched := z.switched || s.releasesSwitch e z.rt run } := by
  have u0 : s.undelivered 0 = 0 := by simp [State.undelivered]
  have D : ∀ g, z.deliverable (s.streamCtx i e b) g = true ↔ dest = some g := by
    intro g
    rw [StreamView.deliverable_iff]
    simp only [deliverableFrom, show (s.streamCtx i e b).entry.mode = .preferred p from hm, hd]
    simp
  by_cases h0 : run = []
  · subst h0
    rw [StreamView.reexamine_kept]
    · simp [State.reexamine, State.releaseFrames, State.releaseNotices, State.releasesSwitch, u0, Pool.freedIn_zero]
    · intro h hh ⟨k1, k2⟩
      simp only [reexamined, k1] at hr
      obtain ⟨r1, -, -, r4⟩ := hr
      exact r4 h (by rw [List.nil_append] at r1; rw [← r1]; exact hh) ⟨by simp, (D _).1 k2⟩
  · cases hn : z.rt.nes with
    | none => simp only [reexamined, hn] at hr; exact absurd hr.1 h0
    | some n =>
      simp only [reexamined, hn] at hr
      have E : (fun g => dest = some g) = deliverableFrom e z.rt := by
        funext g; simp only [deliverableFrom, hm, hd]; simp
      obtain ⟨h, t, rfl⟩ := List.exists_cons_of_ne_nil h0
      obtain ⟨a1, a2, a3, -⟩ := releaseSplit_cons hr
      have start : z.reexamine (s.streamCtx i e b) =
          (z.releaseRun (s.streamCtx i e b) false z.rt.hold).closeArrival (s.streamCtx i e b) := by
        simp only [StreamView.reexamine]
        split
        · rename_i k; rw [a1] at k; cases k
        · rename_i y w k
          have : y = h := by rw [a1] at k; exact (List.cons.inj k).1.symm
          subst this
          rw [if_pos ⟨hsw, by rw [hn, a2], (D _).2 a3⟩]
      rw [start, StreamView.releaseRun_eq z s i e b false _ n (h :: t) left hn hr
          (by rw [if_neg (by simp)]; exact fun f => iff_of_eq (congrFun E f)),
        StreamView.closeArrival_closed]
      have hs : (s.releasingAll e z.rt (h :: t)).mergeState = z.rt.mergeState := s.releasingAll_mergeState e _ _
      simp [State.reexamine, recoveredNotice, hs]

/-! ### The review (R69, R70) -/

/-- The evaluation of a review leaves the selector that `State.reviewed` says, and a switch and its notice where the active
feed changes (R69, R70, R73). -/
theorem StreamView.evaluate_eq (p : SelectionPart) (v : StreamView) (q : Selector) (hq : v.rt.selector = some q)
    (hrp : q.reviewPending = false) :
    v.evaluate (s.streamCtx i e b) p = { v with
      rt := { v.rt with selector := some (s.reviewed e p q) }
      raised := v.raised ++ switchNotice i e q.active (s.reviewed e p q).active
      switched := v.switched || decide (q.active ≠ (s.reviewed e p q).active) } := by
  have hb : (s.streamCtx i e b).best = s.bestUsable e := rfl
  have moved : ∀ (x : Option Feed) st, v.setActive (s.streamCtx i e b) x st none = { v with
      rt := { v.rt with selector := some { q with
        state := st, holdOff := none, active := x, rescueRun := if x = q.active then q.rescueRun else none } }
      raised := v.raised ++ switchNotice i e q.active x
      switched := v.switched || decide (q.active ≠ x) } := by
    intro x st
    by_cases h : q.active = x
    · subst h
      rw [StreamView.setActive_stay _ _ q _ _ _ hq rfl]
      simp [switchNotice]
    · rw [StreamView.setActive_switch _ _ q _ _ _ hq h]
      simp [switchNotice, h, Ne.symm h, streamNotice, State.streamCtx]
  have atOnce : v.immediateSwitch (s.streamCtx i e b) = { v with
      rt := { v.rt with selector := some (s.switchedAtOnce e q) }
      raised := v.raised ++ switchNotice i e q.active (s.bestUsable e)
      switched := v.switched || decide (q.active ≠ s.bestUsable e) } := by
    simp only [StreamView.immediateSwitch, hb]
    cases hbe : s.bestUsable e <;> simp only [moved] <;> simp [State.switchedAtOnce, State.selectorAtBest, hbe, hrp]
  have unmarked : ({ q with reviewPending := false } : Selector) = q := by rw [← hrp]
  have usable : (s.streamCtx i e b).activeUsable q.active = true ↔ ∃ a ∈ q.active, s.serves e a := by
    simp only [StreamCtx.activeUsable]
    cases hqa : q.active with
    | none => simp
    | some a => simp [State.streamCtx, State.serves]
  have dest : (s.switchedAtOnce e q).active = s.bestUsable e := rfl
  have stays : ∀ st t, v.setActive (s.streamCtx i e b) q.active st t = { v with
      rt := { v.rt with selector := some { q with state := st, holdOff := t } }
      raised := v.raised ++ switchNotice i e q.active q.active
      switched := v.switched || decide (q.active ≠ q.active) } := by
    intro st t
    rw [StreamView.setActive_stay _ _ q _ _ _ hq rfl]
    simp [switchNotice]
  have eval : v.evaluate (s.streamCtx i e b) p =
      if !(s.streamCtx i e b).activeUsable q.active then v.immediateSwitch (s.streamCtx i e b)
      else if s.bestUsable e != q.active && p.revertive && q.holdOff.isNone && p.holdOff == 0 then
        v.immediateSwitch (s.streamCtx i e b)
      else
        v.setActive (s.streamCtx i e b) q.active
          ((s.streamCtx i e b).settled p (s.bestUsable e != q.active) q.holdOff).1
          ((s.streamCtx i e b).settled p (s.bestUsable e != q.active) q.holdOff).2 := by
    simp only [StreamView.evaluate, hq, hb]
  have rows : s.reviewed e p q = if ¬∃ a ∈ q.active, s.serves e a then s.switchedAtOnce e q
      else if s.bestUsable e = q.active then { q with state := .primary, holdOff := none }
      else if p.revertive = false then { q with state := .backup, holdOff := none }
      else if q.holdOff.isSome = true then { q with state := .revertWait }
      else if 1 ≤ p.holdOff then { q with state := .revertWait, holdOff := some (s.elapsed + p.holdOff * 1000) }
      else s.switchedAtOnce e q := by
    simp only [State.reviewed]; rw [unmarked, hrp]
  have row : ∀ Q st t, s.reviewed e p q = Q → Q = { q with state := st, holdOff := t } →
      v.setActive (s.streamCtx i e b) q.active st t = { v with
        rt := { v.rt with selector := some (s.reviewed e p q) }
        raised := v.raised ++ switchNotice i e q.active (s.reviewed e p q).active
        switched := v.switched || decide (q.active ≠ (s.reviewed e p q).active) } := by
    intro Q st t h1 h2
    rw [h1, h2, stays]
  by_cases hu : ∃ a ∈ q.active, s.serves e a
  · have nu : ¬ (!(s.streamCtx i e b).activeUsable q.active) = true := by rw [usable.2 hu]; simp
    rw [eval, if_neg nu]
    rw [if_neg (not_not.2 hu)] at rows
    by_cases h1 : s.bestUsable e = q.active
    · rw [if_pos h1] at rows
      rw [if_neg (by simp [h1])]
      refine row _ _ _ rows ?_
      simp [StreamCtx.settled, h1]
    · have h1' : (s.bestUsable e != q.active) = true := by simpa using h1
      rw [if_neg h1] at rows
      cases hrev : p.revertive with
      | false =>
        rw [if_pos hrev] at rows
        rw [if_neg (by simp)]
        refine row _ _ _ rows ?_
        simp [StreamCtx.settled, h1', hrev]
      | true =>
        rw [if_neg (by simp [hrev])] at rows
        cases hho : q.holdOff with
        | some x =>
          rw [if_pos (by simp [hho])] at rows
          rw [if_neg (by simp)]
          refine row _ _ _ rows ?_
          simp [StreamCtx.settled, h1', hrev]; exact hho
        | none =>
          rw [if_neg (by simp [hho])] at rows
          by_cases h0 : p.holdOff = 0
          · rw [if_neg (by omega)] at rows
            rw [if_pos (by simp [h1', h0]), atOnce, rows]; rfl
          · rw [if_pos (by omega)] at rows
            rw [if_neg (by simp [h0])]
            refine row _ _ _ rows ?_
            simp [StreamCtx.settled, h1', hrev, h0]; rfl
  · have nu : (!(s.streamCtx i e b).activeUsable q.active) = true := by
      have := (not_congr usable).2 hu; simpa using this
    rw [if_pos hu] at rows
    rw [eval, if_pos nu, atOnce, rows]; rfl

/-! ### The retune (R75, R154) -/

/-- A retune trims the hold list, clears the candidate, and for a PREFERRED entry reviews the selector and re-examines. -/
theorem StreamView.retune_eq (c : StreamCtx) (v : StreamView) (h : v.rt.nes = none → v.rt.hold = []) :
    v.retune c =
      (let w := ((v.mapRt fun r => { r with hold := v.rt.trimmed c.entry }).freeBuffers c
          (v.rt.hold.length - (v.rt.trimmed c.entry).length)).clearCandidate
       match c.entry.mode with
       | .first => w
       | .preferred p =>
         ((w.mapSelector fun q => { q with rescueRun := none, reviewPending := false }).evaluate c p).reexamine c) := by
  have : v.rt.trimmed c.entry = (match v.rt.nes with
      | some n => trimHold c.entry n v.rt.hold
      | none => v.rt.hold) := by
    simp only [Runtime.trimmed]
    cases hn : v.rt.nes with
    | none => exact (h hn).symm
    | some n => simp [trimHold, List.contains_eq_mem]
  rw [this]; rfl

/-- The pressure flag after its test (R110). -/
theorem Pool.tested_pressure (p : Pool) : p.tested.1.pressure = (p.pressure && decide (p.free < 32)) := by
  obtain ⟨f, b⟩ := p
  simp only [Pool.tested, Config.pressureClear]
  cases b
  · simp
  · by_cases h : 32 ≤ f
    · simp [h]
    · simp [h]; omega

end Sys2Proof.Machine
end

