-- ==== Sys2Proof/Laws/Wire.lean ====
section
/-! SUPPORT. Fields read back as they were written: byte order, and the fields of a frame the part sends. -/

namespace Sys2Proof.Machine

theorem word16_be16 (w : BitVec 16) : word16 (w.extractLsb' 8 8) (w.extractLsb' 0 8) = w := by
  simp only [word16]
  apply BitVec.eq_of_getLsbD_eq
  intro i hi
  simp only [BitVec.getLsbD_append, BitVec.getLsbD_extractLsb']
  by_cases h : i < 8
  · simp [h]
  · have : i - 8 < 8 := by omega
    have h2 : 8 + (i - 8) = i := by omega
    simp [h, this, h2]

theorem word32_be32 (w : BitVec 32) :
    word16 (w.extractLsb' 24 8) (w.extractLsb' 16 8) ++ word16 (w.extractLsb' 8 8) (w.extractLsb' 0 8) = w := by
  simp only [word16]
  apply BitVec.eq_of_getLsbD_eq
  intro i hi
  simp only [BitVec.getLsbD_append, BitVec.getLsbD_extractLsb']
  by_cases h : i < 8
  · have : i < 16 := by omega
    simp [h, this]
  · by_cases h1 : i < 16
    · have : i - 8 < 8 := by omega
      have h2 : 8 + (i - 8) = i := by omega
      simp [h, h1, this, h2]
    · by_cases h3 : i < 24
      · have : i - 16 < 8 := by omega
        have h2 : 16 + (i - 16) = i := by omega
        simp [h1, this, h2]
      · have a : ¬(i - 16 < 8) := by omega
        have b : i - 16 - 8 < 8 := by omega
        have h2 : 24 + (i - 16 - 8) = i := by omega
        simp [h1, a, b, h2]

theorem byteOf_toNat (n : Nat) (h : n < 256) : (byteOf n).toNat = n := by
  simp [byteOf]
  omega

theorem feedOf_feedByte (f : Feed) : feedOf (feedByte f) = some f := by
  revert f
  decide

theorem slotOf_slotByte (i : Slot) : slotOf (slotByte i) = i := by
  apply Fin.ext
  show (BitVec.ofNat 8 i.val).toNat = i.val
  simp

theorem Frame.body_length (f : Frame) : f.body.length = 8 + f.payload.length := by
  simp [Frame.body, be16]
  omega

theorem Frame.byteAt_wire (f : Frame) (i : Nat) (h : i < f.body.length) : byteAt f.wire i = byteAt f.body i := by
  simp only [byteAt, Frame.wire, List.getD_eq_getElem?_getD, List.getElem?_append_left h]

theorem Frame.wire_payloadLength (f : Frame) (h : f.payload.length ≤ 240) :
    payloadLength f.wire = f.payload.length := by
  rw [payloadLength, f.byteAt_wire _ (by rw [f.body_length]; omega)]
  have : byteAt f.body 7 = byteOf f.payload.length := by simp [byteAt, Frame.body, be16]
  rw [this, byteOf_toNat _ (by omega)]

theorem Frame.wire_checkWord (f : Frame) : word32At f.wire f.body.length = checkWord f.body := by
  have key : ∀ j < 4, byteAt f.wire (f.body.length + j) = byteAt (be32 (checkWord f.body)) j := by
    intro j hj
    simp only [byteAt, Frame.wire, List.getD_eq_getElem?_getD]
    rw [List.getElem?_append_right (by omega), show f.body.length + j - f.body.length = j by omega]
  simp only [word32At, word16At]
  rw [show f.body.length + 2 + 1 = f.body.length + 3 by omega]
  have h0 := key 0 (by omega)
  rw [Nat.add_zero] at h0
  rw [h0, key 1 (by omega), key 2 (by omega), key 3 (by omega)]
  exact word32_be32 _

end Sys2Proof.Machine
end

