-- ==== Sys2Proof/Tests/Slice0.lean ====
section
/-! SUPPORT. Tests: ill-formed terms that the checks refuse, one-step tests whose results are the spec's (its rules and
worked examples), and for every statement with hypotheses a witness that meets them, at the boundary values. -/

namespace Sys2Proof.Tests

set_option Elab.async false

open Sys2Proof Sys2Proof.Machine

/-! ### Small states -/

/-- An IN_SERVICE, usable feed. -/
def serving : Monitor :=
  { Monitor.reset with state := .inService, link := true, usable := true, window := some ⟨60000, 0, 0⟩ }

/-- A feed in PROBATION with its link up. -/
def probing : Monitor := { serving with state := .probation, usable := false }

/-- A DISABLED feed with its link up. -/
def disabledFeed : Monitor :=
  { Monitor.reset with state := .disabled, link := true, current := { Settings.reset with disabled := true } }

/-- Four feeds in service, the delivery link up, part time 50,000. -/
def base : State :=
  { State.reset with
    elapsed := 50000
    monitors := Vector.replicate 4 serving
    feedLatches := Vector.replicate 4 false
    delivery := { Delivery.reset with linkUp := true } }

/-- The FIRST entry of 2.12.1, with placeholder limit 2. -/
def entry : Entry :=
  { enabled := true, tag := 0x0110, mode := .first, feeds := [0, 1], origin := none, period := 1000, slack := 300,
    window := 64, holdLimit := 4, resyncThreshold := 3, placeholderLimit := 2 }

def selection : SelectionPart := ⟨true, 5000, 3⟩

def preferred : Entry := { entry with mode := .preferred selection }

def bankOf (i : Slot) (e : Entry) : Bank := { slots := wr Bank.empty.slots i (some e), index := [(e.tag, i)] }

/-- Slot 5 holds `e` in both banks, and its runtime record is `r`. -/
def streaming (e : Entry) (r : Runtime) : State :=
  { base with bankA := bankOf 5 e, bankB := bankOf 5 e, runtimes := wr base.runtimes 5 r }

/-- TRACKING with NES 100 (2.12.1). -/
def tracking : Runtime := { Runtime.disabled .zero with mergeState := .tracking, nes := some 100, due := some 51300 }

def primary (f : Feed) : Selector := ⟨.primary, some f, none, none, false⟩

/-- TRACKING with NES 100, PREFERRED with active feed F0. -/
def selecting : Runtime := { tracking with selector := some (primary 0) }

def copyOf (f : Feed) (q : Seq) : Copy := { feed := f, tag := 0x0110, seq := q, origin := 7, payload := [1, 2] }

def offering (s : State) (c : Copy) : State := s.setPort c.feed { receiveStore := [], offered := [c] }

/-- The state after a command; every command answers one. -/
def after (i : Instr) (s : State) : State :=
  match exec i s with
  | .next t => t
  | _ => s

def offered (e : Entry) (r : Runtime) (c : Copy) : State := offering (streaming e r) c

/-- The record of slot 5 after `c` is taken. -/
def taken (e : Entry) (r : Runtime) (c : Copy) : Runtime := rd (after (.copyTake c.feed) (offered e r c)).runtimes 5

/-- The session of 8.12. -/
def session : Session := ⟨0x5A3C, 7, .reply ⟨0x5A3C, 7, 0x01, .ok, [0, 0, 0, 0, 10]⟩, 10, 10050000, []⟩

def command (seq code : Byte) (args : List Byte) : Command := ⟨0x5A3C, seq, code, args⟩

/-- The session is open and `c` stands in the inbox. -/
def asking (s : State) (c : Command) : State := { s with inbox := [c], session := some session }

/-- The payload bytes of the last frame of the control queue. -/
def answer (s : State) : List Byte := (s.delivery.controlQueue.map (·.payload)).getLast?.getD []

def wireOf (k : FrameKind) (tag : Tag) (size : Nat) : List Byte :=
  Frame.wire { kind := k, marks := 0, tag := tag, seq := 100, origin := 7, payload := List.replicate size 0xAA }

/-! ### Ill-formed entries, settings and records -/

/-- The well-formed terms of the tests are accepted (R4, R79). -/
theorem test_wellFormed_accepts : entry.wellFormed = true ∧ preferred.wellFormed = true ∧
    Settings.reset.wellFormed = true := by decide

/-- Each field of an entry outside its range is refused (R4, R5, R7). -/
theorem test_entry_refused :
    { entry with period := 9 }.wellFormed = false ∧ { entry with period := 1000001 }.wellFormed = false ∧
    { entry with slack := 65536 }.wellFormed = false ∧ { entry with window := 0 }.wellFormed = false ∧
    { entry with window := 1024 }.wellFormed = false ∧ { entry with holdLimit := 9 }.wellFormed = false ∧
    { entry with resyncThreshold := 0 }.wellFormed = false ∧ { entry with resyncThreshold := 8 }.wellFormed = false ∧
    { entry with placeholderLimit := 256 }.wellFormed = false ∧
    { entry with mode := .preferred ⟨true, 60001, 3⟩ }.wellFormed = false ∧
    { entry with mode := .preferred ⟨true, 0, 0⟩ }.wellFormed = false ∧
    { entry with mode := .preferred ⟨true, 0, 16⟩ }.wellFormed = false ∧ { entry with feeds := [] }.wellFormed = false ∧
    { entry with feeds := [0, 1, 0] }.wellFormed = false ∧ { entry with tag := 0xFFFF }.wellFormed = false := by decide

/-- Each setting outside its range is refused (R79). -/
theorem test_settings_refused :
    { Settings.reset with windowLength := 99 }.wellFormed = false ∧
    { Settings.reset with windowLength := 65536 }.wellFormed = false ∧
    { Settings.reset with minValid := 65536 }.wellFormed = false ∧
    { Settings.reset with acceptMargin := 5 }.wellFormed = false ∧
    { Settings.reset with rejectMargin := 256 }.wellFormed = false ∧
    { Settings.reset with qualify := 0 }.wellFormed = false ∧ { Settings.reset with qualify := 16 }.wellFormed = false ∧
    { Settings.reset with disqualify := 0 }.wellFormed = false ∧
    { Settings.reset with disqualify := 16 }.wellFormed = false := by decide

/-- A record of tag 0x0110 on F0 and F1 written out from 6.6.4: period 1000, slack 300, W 64, hold limit 4, resync
threshold 3, placeholder limit 2. -/
def record (flags count : Byte) (tag : List Byte) (period : Byte) : List Byte :=
  [flags] ++ tag ++ [count, 0, 1, 0, 0, 0, 0, 0, 0x03, period, 0x01, 0x2C, 0, 64, 4, 3, 2, 0, 0, 0]

theorem test_record_accepted : (checkRecord (record 0x01 2 [0x01, 0x10] 0xE8)).toOption = some entry := by decide

/-- Each reason of R105, the first applicable one when several apply. -/
theorem test_record_refused :
    (match checkRecord (record 0x0B 5 [0xFF, 0xFF] 0xE8) with | .error w => some w | .ok _ => none) = some .feedList ∧
    (match checkRecord (record 0x03 2 [0xFF, 0xFF] 0xE8) with | .error w => some w | .ok _ => none) =
      some .selectionPart ∧
    (match checkRecord (record 0x0B 2 [0xFF, 0xFF] 0xE8) with | .error w => some w | .ok _ => none) =
      some .reservedTag ∧
    (match checkRecord (record 0x0B 2 [0x01, 0x10] 0xE8) with | .error w => some w | .ok _ => none) =
      some .fieldRange := by decide

/-! ### One step of each command -/

/-- The check word of the bytes 0x31 to 0x39 (6.1.1). -/
theorem test_check_word :
    checkWord [0x31, 0x32, 0x33, 0x34, 0x35, 0x36, 0x37, 0x38, 0x39] = 0xFC891918 := by decide +kernel

/-- R92, R118, R163, R164: 512 buffers, ALERT asserted. -/
theorem test_por : (after .por base).pool.free = 512 ∧ (after .por base).alert = true := by decide +kernel

/-- 6.7, step 1: a valid frame of a usable feed is offered. -/
theorem test_feed_frame_offered :
    let t := after (.feedFrameReceived 3 (wireOf .sample 0x0801 20)) base
    (rd t.monitors 3).counters.valid = 1 ∧ (rd t.ports 3).offered.length = 1 := by decide +kernel

/-- 6.7, step 2: 31 bytes of a 32-byte frame. -/
theorem test_feed_frame_errored :
    let t := after (.feedFrameReceived 3 ((wireOf .sample 0x0801 20).take 31)) base
    (rd t.monitors 3).counters.errored = 1 ∧ (rd t.ports 3).offered = [] := by decide +kernel

/-- R85. -/
theorem test_feed_link_down :
    (rd (after (.feedLinkDown 2) base).monitors 2).state = .down ∧
    (rd (after (.feedLinkDown 2) base).monitors 2).usable = false := by decide +kernel

/-- R86: the first window ends one window length later. -/
theorem test_feed_link_up :
    let m := rd (after (.feedLinkUp 1) { base with monitors := Vector.replicate 4 Monitor.reset }).monitors 1
    m.state = .probation ∧ m.window = some ⟨60000, 0, 0⟩ := by decide +kernel

/-- A monitor of 5.10 whose window has reached its expiry with V and E. -/
def judged (m : Monitor) (v e : BitVec 16) : Monitor := { m with window := some ⟨50000, v, e⟩ }

/-- 5.10, window 4. -/
theorem test_window_quarantine :
    let m := rd (after (.windowExpiry 1) (base.setMonitor 1 (judged { serving with rejectTally := 1 } 980 11))).monitors 1
    m.state = .quarantine ∧ m.rejectTally = 2 ∧ m.usable = false ∧ m.counters.quarantines = 1 := by decide +kernel

/-- 5.10, window 3. -/
theorem test_window_neutral :
    let m := rd (after (.windowExpiry 1) (base.setMonitor 1 (judged { serving with rejectTally := 1 } 995 2))).monitors 1
    m.state = .inService ∧ m.acceptedRun = 0 ∧ m.rejectTally = 1 := by decide +kernel

/-- R67. -/
theorem test_feed_event :
    (rd (after (.feedEvent 0) { streaming preferred selecting with feedEvents := Vector.replicate 4 1 }).runtimes
      5).reviewPending = true := by decide +kernel

/-- A stream whose active feed F0 is down and whose review is pending. -/
def reviewing : State :=
  (streaming preferred { selecting with selector := some { primary 0 with reviewPending := true } }).setMonitor 0 Monitor.reset

/-- R69: an immediate switch to the other feed. -/
theorem test_selector_review :
    ((rd (after .selectorReview reviewing).runtimes 5).selector.map (·.active)) = some (some 1) := by decide +kernel

/-- R71: the return to the better feed. -/
theorem test_hold_off_expiry :
    ((rd (after (.holdOffExpiry 5) (streaming preferred { selecting with
      selector := some ⟨.revertWait, some 1, some 50000, none, false⟩ })).runtimes 5).selector) =
      some (primary 0) := by decide +kernel

/-- 2.12.1, step 1. -/
theorem test_copy_released : (taken entry tracking (copyOf 0 100)).nes = some 101 ∧
    (taken entry tracking (copyOf 0 100)).due = some 51300 := by decide +kernel

/-- 2.12.1, step 2. -/
theorem test_copy_held : (taken entry tracking (copyOf 0 102)).hold = [copyOf 0 102] ∧
    (taken entry tracking (copyOf 0 102)).nes = some 100 := by decide +kernel

/-- A stream at its deadline. -/
def late (e : Entry) (r : Runtime) : State := { streaming e r with elapsed := 51300 }

/-- 3.6.1, step 1: a placeholder, and the next expiry one period later. -/
theorem test_due_placeholder :
    let t := after (.dueExpiry 5) (late entry tracking)
    (t.dataQueue.map fun f => (f.seq, f.marks, f.payload)) = [(100, 0x08, [])] ∧
    (rd t.runtimes 5).due = some 52300 := by decide +kernel

/-- 3.6.2, step 3: a fallback rescued at the deadline. -/
theorem test_due_rescue :
    let t := after (.dueExpiry 5) (late preferred { selecting with hold := [copyOf 1 100] })
    (t.dataQueue.map fun f => (f.seq, f.marks)) = [(100, 0x05)] ∧
    ((rd t.runtimes 5).selector.bind (·.rescueRun)) = some ⟨1, 1⟩ := by decide +kernel

/-- R100, R120: the fifth command overflows the inbox. -/
theorem test_delivery_frame :
    let s := after (.deliveryFrameReceived (wireOf .command 0xFFFF 4)) base
    s.inbox = [⟨0xAAAA, 0xAA, 0xAA, []⟩] ∧
    (after (.deliveryFrameReceived (wireOf .command 0xFFFF 4)) { base with
      inbox := List.replicate 4 (command 0 0 []) }).inboxOverflows = 1 := by decide +kernel

def reply : Frame := managementFrame .reply [1]
def notice : Frame := managementFrame .notice [2]

/-- R115: two flushed data frames and one lost notice. -/
theorem test_delivery_link_down :
    let t := after .deliveryLinkDown { base with
      dataQueue := [reply, reply], pool := ⟨510, false⟩
      delivery := { base.delivery with controlQueue := [notice] } }
    t.pool.free = 512 ∧ t.delivery.flushed = 2 ∧ t.notices.lost = 1 := by decide +kernel

theorem test_delivery_link_up : (after .deliveryLinkUp State.reset).delivery.linkUp = true := by decide +kernel

/-- 7.6.1: with the data run at 4 the control queue is served. -/
theorem test_transmission_start :
    let t := after .transmissionStart { base with
      dataQueue := [reply], delivery := { base.delivery with controlQueue := [notice], dataRun := 4 } }
    t.delivery.transmitter = .control notice ∧ t.delivery.dataRun = 0 := by decide +kernel

/-- 7.1.4, step 8: the free that leaves 32. -/
theorem test_transmission_complete :
    (after .transmissionComplete { base with
      pool := ⟨31, true⟩, delivery := { base.delivery with transmitter := .data reply } }).pool = ⟨32, false⟩ := by
  decide +kernel

theorem test_reply_wait_admit :
    (after .replyWaitAdmit { base with delivery := { base.delivery with replyWait := [reply] } }).delivery.controlQueue =
      [reply] := by decide +kernel

/-- R125: OK with the generation and the timeout. -/
theorem test_open_session :
    answer (after .openSession { base with generation := 12, inbox := [command 7 0x01 [10]] }) =
      [0x5A, 0x3C, 7, 0x01, 0x00, 0, 0, 0, 12, 10] := by decide +kernel

theorem test_close_session : (after .closeSession (asking base (command 8 0x02 []))).session = none := by decide +kernel

/-- 8.12, step 6: a sequence that is neither the last nor the next. -/
theorem test_status_out_of_order :
    answer (after .status (asking base (command 9 0x10 []))) = [0x5A, 0x3C, 9, 0x10, 0x05] := by decide +kernel

/-- R133: 5 bytes of envelope and 50 of data. -/
theorem test_status : (answer (after .status (asking base (command 8 0x10 [])))).length = 55 := by decide +kernel

/-- R134, R105: the live entry read back. -/
theorem test_read_stream :
    answer (after .readStream (asking (streaming entry tracking) (command 8 0x11 [5, 0]))) =
      [0x5A, 0x3C, 8, 0x11, 0x00, 5, 0, 2] ++ record 0x01 2 [0x01, 0x10] 0xE8 := by decide +kernel

/-- R136, R79: the power-on settings. -/
theorem test_read_feed :
    (answer (after .readFeed (asking base (command 8 0x12 [1])))).take 15 =
      [0x5A, 0x3C, 8, 0x12, 0x00, 1, 0x27, 0x10, 0, 1, 0, 4, 3, 2, 0] := by decide +kernel

/-- R137, R163: the power-on settings. -/
theorem test_read_notices :
    answer (after .readNotices (asking base (command 8 0x13 []))) =
      [0x5A, 0x3C, 8, 0x13, 0x00, 0, 8, 8, 0, 50, 0x1F, 0xFF, 0, 0] := by decide +kernel

/-- R89: settings wait for the window's end. -/
theorem test_set_feed :
    (rd (after .setFeed (asking base (command 8 0x20 [1, 0x27, 0x10, 0, 1, 0, 4, 2, 2, 0]))).monitors 1).pending =
      some { Settings.reset with qualify := 2 } := by decide +kernel

theorem test_set_notices :
    (after .setNotices (asking base (command 8 0x21 [0xFF, 0xFF, 4, 0, 100]))).notices.credits = 4 := by decide +kernel

theorem test_clear_counters :
    (after .clearCounters (asking { base with delivery := { base.delivery with foreign := 9 } }
      (command 8 0x22 [2, 0]))).delivery.foreign = 0 := by decide +kernel

/-- R44. -/
theorem test_restart_stream :
    (rd (after .restartStream (asking (streaming entry tracking) (command 8 0x23 [5]))).runtimes 5).mergeState =
      .seeking := by decide +kernel

/-- R142: one latch cleared, the latch of the stream in BRIDGING kept. -/
theorem test_ack_alarms :
    answer (after .ackAlarms (asking { streaming entry { tracking with mergeState := .bridging } with
      feedLatches := wr base.feedLatches 2 true, streamLatches := wr base.streamLatches 5 true } (command 8 0x24 [4, 0]))) =
      [0x5A, 0x3C, 8, 0x24, 0x00, 0, 1, 0, 1] := by decide +kernel

/-- R143: the stream seeks, and the reply has the level and the generation. -/
theorem test_reset_part_restart :
    let t := after .resetPartRestart (asking (streaming entry tracking) (command 8 0x2F [1]))
    (rd t.runtimes 5).mergeState = .seeking ∧ answer t = [0x5A, 0x3C, 8, 0x2F, 0x00, 1, 0, 0, 0, 0] := by decide +kernel

/-- R144: the table is empty and the session closed. -/
theorem test_reset_part_clear :
    let t := after .resetPartClear (asking (streaming entry tracking) (command 8 0x2F [2]))
    rd t.bankA.slots 5 = none ∧ t.session = none := by decide +kernel

/-- 8.12, step 1. -/
theorem test_stage_write :
    answer (after .stageWrite (asking base (command 8 0x30 (3 :: record 0x01 2 [0x01, 0x10] 0xE8)))) =
      [0x5A, 0x3C, 8, 0x30, 0x00, 1] := by decide +kernel

theorem test_stage_remove :
    (after .stageRemove (asking base (command 8 0x31 [3]))).stagingList = [⟨3, .remove⟩] := by decide +kernel

/-- R147: NOT_STAGED. -/
theorem test_unstage :
    answer (after .unstage (asking base (command 8 0x32 [3]))) = [0x5A, 0x3C, 8, 0x32, 0x09] := by decide +kernel

/-- R149: STALE against another generation. -/
theorem test_commit_stale :
    answer (after .commit (asking { base with generation := 13 } (command 8 0x33 [0, 0, 0, 12]))) =
      [0x5A, 0x3C, 8, 0x33, 0x0A] := by decide +kernel

/-- 8.12, step 2: prepare starts, and no reply is sent. -/
theorem test_commit_accepted :
    let t := after .commit (asking { base with generation := 12 } (command 8 0x33 [0, 0, 0, 12]))
    t.engine = .preparing ⟨0x5A3C, 8, []⟩ false ∧ t.delivery.controlQueue = [] := by decide +kernel

theorem test_unknown_command :
    answer (after .unknownCommand (asking base (command 8 0x40 []))) = [0x5A, 0x3C, 8, 0x40, 0x07] := by decide +kernel

/-- 8.12: the idle timer has run out; R2: and still has when part time has wrapped. -/
theorem test_idle_expiry :
    (after .idleExpiry { base with session := some session, elapsed := 10050000 }).session = none ∧
    (after .idleExpiry { base with session := some session, elapsed := 10049999 }).session = some session ∧
    (after .idleExpiry { base with session := some session, elapsed := 4294967296 }).session = none := by
  decide +kernel

/-- R2: part time wraps to 0. -/
theorem test_part_time_wraps : ({ base with elapsed := 4294967295 } : State).tick.partTime = 0 := by decide +kernel

/-- A commit of one removal of slot 5. -/
def removal : Commit := ⟨0x5A3C, 9, [⟨5, .remove⟩]⟩

/-- R151: the standby bank takes the change. -/
theorem test_prepare_complete :
    let t := after .prepareComplete { streaming entry tracking with engine := .preparing removal false }
    rd t.bankB.slots 5 = none ∧ rd t.bankA.slots 5 = some entry := by decide +kernel

/-- A requested swap that removes slot 5. -/
def swapping : State :=
  { streaming entry tracking with bankB := Bank.empty, engine := .preparing removal true, session := some session }

/-- R152, R127: the generation rises and the deferred OK is sent. -/
theorem test_swap :
    (after .swap swapping).live = .b ∧ answer (after .swap swapping) = [0x5A, 0x3C, 9, 0x33, 0x00, 0, 0, 0, 1] := by
  decide +kernel

/-- R154, R75: a retune that drops the active feed discards its held copies and releases the fallback of the new one. -/
theorem test_swap_retune :
    let t := after .swap { streaming preferred { selecting with hold := [copyOf 1 100, copyOf 0 101] } with
      bankB := bankOf 5 { preferred with feeds := [1] }, engine := .preparing { removal with
        changes := [⟨5, .write { preferred with feeds := [1] }⟩] } true, pool := ⟨510, false⟩ }
    (rd t.runtimes 5).active = some 1 ∧ (rd t.runtimes 5).nes = some 101 ∧ t.pool.free = 511 ∧
    t.dataQueue.map (·.seq) = [100] := by decide +kernel

theorem test_sync_complete :
    (after .syncComplete { base with engine := .syncing [] none }).engine = .ready := by decide +kernel

def gapNotice (d : BitVec 16) : Notice := ⟨.streamGap, .stream 20, 0x0450, d⟩

def recordOf (n : Notice) (repeats : Nat) (first last : Time) : NoticeRecord :=
  ⟨n.kind, n.subject, n.tag, repeats, first, last, n.detail⟩

/-- 11.6: the second gap coalesces, with the detail of the first. -/
theorem test_notice_raise :
    (after .noticeRaise { base with elapsed := 1015000, notices := { base.notices with
      raised := [gapNotice 1], queue := [recordOf (gapNotice 3) 1 1010000 1010000] } }).notices.queue =
      [recordOf (gapNotice 3) 2 1010000 1015000] := by decide +kernel

/-- R139: a notice raised before SET_NOTICES stands under the old mask, kept by one that lets it through and not raised by
one that leaves it out, and one raised after stands under the new. -/
theorem test_set_notices_mask :
    let waits (mask : BitVec 16) := { base with notices := { base.notices with mask := mask, raised := [gapNotice 1] } }
    let set (a b : Byte) (s : State) := after .setNotices (asking s (command 8 0x21 [a, b, 8, 0, 50]))
    (after .noticeRaise (set 0 0 (waits 0x1FFF))).notices.queue.length = 1 ∧
    (after .noticeRaise (set 0xFF 0xFF (waits 0))).notices.queue = [] ∧
    (after .noticeRaise ((set 0 0 base).raise (gapNotice 1))).notices.queue = [] := by decide +kernel

/-- R106: the record has the tag of the live entry, not the one before a swap; R58: of an EMPTY slot, the notice's. -/
theorem test_notice_tag :
    let s := streaming entry tracking
    let raised (i : Slot) := after .noticeRaise { s with notices := { s.notices with
      raised := [⟨.streamGap, .stream i, 0x0450, 1⟩] } }
    (raised 5).notices.queue.map (·.tag) = [0x0110] ∧ (raised 6).notices.queue.map (·.tag) = [0x0450] := by decide +kernel

/-- 6.6.6: the notice record on the wire. -/
theorem test_notice_move :
    answer (after .noticeMove { base with notices := { base.notices with
      lost := 4, queue := [recordOf (gapNotice 3) 2 1010000 1015000] } }) =
      [0, 4, 0x10, 2, 20, 0x04, 0x50, 2, 0x00, 0x0F, 0x69, 0x50, 0x00, 0x0F, 0x7C, 0xD8, 0, 3] := by decide +kernel

theorem test_refill_expiry :
    (after .refillExpiry { base with notices := { base.notices with credits := 0, refillExpiry := 50000 } }).notices.credits =
      1 := by decide +kernel

/-! ### Witnesses: concrete states and operands that meet each statement's hypotheses, clause by clause -/

theorem witness_CommandsKeepTimeTableAndQueue :
    Instr.status ≠ .por ∧ Instr.status ≠ .swap ∧ Instr.status ≠ .resetPartClear := by decide

theorem witness_DataQueueGrowsAtTheBack :
    (∃ t, exec (.copyTake 0) (offered entry tracking (copyOf 0 100)) = .next t) ∧ Instr.copyTake 0 ≠ .por ∧
    Instr.copyTake 0 ≠ .transmissionStart ∧ Instr.copyTake 0 ≠ .deliveryLinkDown ∧
    Instr.copyTake 0 ≠ .resetPartRestart ∧ Instr.copyTake 0 ≠ .resetPartClear := ⟨⟨_, rfl⟩, by decide⟩

/-- A state with work everywhere: a held copy, a data frame queued and one in transmission, a notice frame, a command
waiting, a staged change, a notice record, and a completion about to be taken. -/
def busy : State :=
  { streaming entry { tracking with hold := [copyOf 1 102] } with
    pending := [.transmissionComplete]
    pool := ⟨509, false⟩
    dataQueue := [reply]
    delivery := { base.delivery with controlQueue := [notice], transmitter := .data reply, dataRun := 4 }
    inbox := [command 8 0x10 []]
    session := some { session with staging := [⟨7, .write { entry with tag := 0x0111 }⟩] }
    notices := { base.notices with queue := [recordOf (gapNotice 3) 255 1010000 1015000], credits := 0 } }

theorem busy_steps : ∃ t, step busy = .next t := ⟨_, rfl⟩

theorem witness_EveryBufferHasOneUse : busy.poolBalanced := by decide +kernel

theorem witness_DeliveryPortStaysBounded : busy.deliveryBounded := by decide +kernel

theorem witness_InboxAndStagingStayBounded : busy.managementBounded := by decide +kernel

theorem witness_NoticeUnitStaysBounded : busy.noticesBounded := by decide +kernel

theorem witness_BanksStayOneCommitApart : busy.banksAgree := by show bankOf 5 entry = bankOf 5 entry; rfl

theorem rd_bankOf (i j : Slot) (e : Entry) : rd (bankOf i e).slots j = if j = i then some e else none := by
  simp [bankOf, rd_wr, Bank.empty]

theorem bankOf_indexed : (bankOf 5 entry).indexed := by
  refine ⟨fun m h => ?_, fun i e h _ => ?_, by decide⟩
  · obtain rfl : m = (entry.tag, 5) := by simpa [bankOf] using h
    exact ⟨entry, by rw [rd_bankOf]; rfl, rfl, rfl⟩
  · rw [rd_bankOf] at h
    split at h <;> simp_all [bankOf]

theorem bankOf_inRange : (bankOf 5 entry).inRange := fun i e h => by
  rw [rd_bankOf] at h
  split at h <;> simp at h
  subst h; decide

theorem witness_TagsStayDistinctAndIndexed : busy.tablesSound :=
  ⟨witness_BanksStayOneCommitApart, bankOf_indexed, bankOf_indexed, bankOf_inRange, bankOf_inRange, trivial,
    by decide, fun ch h e he => by simp [busy, State.stagingList] at h; subst h; cases he; decide⟩

theorem witness_FeedMonitorsStayConsistent : busy.feedsConsistent := by decide +kernel

theorem busy_enabledEntry (i : Slot) : busy.enabledEntry i = if i = 5 then some entry else none := by
  show (rd (bankOf 5 entry).slots i).filter (·.enabled) = _
  rw [rd_bankOf]
  split <;> rfl

theorem busy_runtime (i : Slot) :
    rd busy.runtimes i = if i = 5 then { tracking with hold := [copyOf 1 102] } else Runtime.disabled .zero := by
  simp [busy, streaming, base, State.reset, rd_wr]

theorem witness_RecordsFollowTheLiveTable : busy.recordsFollow := by
  refine ⟨witness_BanksStayOneCommitApart, fun i => ?_⟩
  rw [busy_enabledEntry, busy_runtime]
  split
  · exact ⟨fun h => (Option.some_ne_none _ h).elim, fun e h => by cases h; exact ⟨by decide, by decide, by decide, by decide, by decide, by decide, by decide, by simp [tracking, Runtime.disabled]⟩⟩
  · exact ⟨fun _ => rfl, fun e h => (Option.some_ne_none e h.symm).elim⟩

/-- A PREFERRED stream's record follows its entry in each selector state, at the edge of the hold limit, and its fallback is
not of the active feed. -/
theorem witness_records_of_a_preferred_stream :
    let r := { selecting with hold := [copyOf 1 100, copyOf 0 101, copyOf 1 102, copyOf 1 164] }
    r.hold.length = preferred.holdLimit ∧ (∀ h ∈ r.hold, h.feed ∈ preferred.feeds) ∧ holdOrdered 64 100 r.hold ∧
    ¬deliverableFrom preferred r 1 ∧ (primary 0).agrees preferred.feeds ∧
    Selector.agrees preferred.feeds ⟨.noFeed, none, none, none, false⟩ ∧
    Selector.agrees preferred.feeds ⟨.backup, some 1, none, some ⟨0, 1⟩, true⟩ ∧
    Selector.agrees preferred.feeds ⟨.revertWait, some 1, some 50000, none, false⟩ := by
  refine ⟨?_, ?_, ?_, ?_, ⟨?_, ?_, ?_, ?_⟩, ⟨?_, ?_, ?_, ?_⟩, ⟨?_, ?_, ?_, ?_⟩, ⟨?_, ?_, ?_, ?_⟩⟩ <;> decide +kernel

theorem witness_HoldListsStayOrdered : busy.holdsOrdered := by
  refine ⟨witness_RecordsFollowTheLiveTable, fun i e n h k => ?_⟩
  rw [busy_enabledEntry] at h
  rw [busy_runtime] at k ⊢
  split at h
  · rw [if_pos ‹_›] at k ⊢
    cases h; cases k; decide
  · cases h

/-- An entry whose every field is at its upper bound. -/
def fullEntry : Entry :=
  { enabled := true, tag := 0xFFFE, mode := .preferred ⟨true, 60000, 15⟩, feeds := [3, 2, 1, 0], origin := some 255,
    period := 1000000, slack := 65535, window := 1023, holdLimit := 8, resyncThreshold := 7, placeholderLimit := 255 }

theorem witness_RecordsReadBackAsSent :
    fullEntry.wellFormed = true ∧ checkRecord (entryRecord fullEntry) = .ok fullEntry ∧
    ({ Settings.reset with windowLength := 65535, rejectMargin := 255, acceptMargin := 255 }).wellFormed = true :=
  ⟨by decide, by rfl, by decide⟩

theorem witness_ReplyDataFollowTheirLayouts : entry.wellFormed = true ∧ fullEntry.wellFormed = true := by decide

theorem witness_SentFramesAreValid :
    (⟨.sample, 0, 0, 0, 0, List.replicate 240 0⟩ : Frame).payload.length ≤ 240 := (List.length_replicate).le

/-- A frame is errored (R97). -/
abbrev errored (frame : List Byte) : Prop :=
  frame.length < 12 ∨ 252 < frame.length ∨ frame.length ≠ 12 + (byteAt frame 7).toNat ∨
    word32At frame (8 + (byteAt frame 7).toNat) ≠ checkWord (frame.take (8 + (byteAt frame 7).toNat))

/-- A frame is misdirected on a feed (R98). -/
abbrev misdirected (frame : List Byte) : Prop := byteAt frame 0 ≠ 0x01 ∨ word16At frame 2 = 0xFFFF

/-- The longest valid frame, of 252 bytes. -/
theorem witness_longest_frame : ¬errored (wireOf .sample 1 240) := by
  let f : Frame := ⟨.sample, 0, 1, 100, 7, List.replicate 240 0xAA⟩
  have hp : f.payload.length = 240 := List.length_replicate
  have hb : f.body.length = 248 := by rw [f.body_length, hp]
  have hw : f.wire.length = 252 := by simp [Frame.wire, hb, be32]
  have hs : (byteAt f.wire 7).toNat = 240 := (f.wire_payloadLength hp.le).trans hp
  have ht : f.wire.take 248 = f.body := by rw [Frame.wire, ← hb, List.take_left' rfl]
  have hc : word32At f.wire 248 = checkWord f.body := by rw [← hb]; exact f.wire_checkWord
  show ¬errored f.wire
  simp [errored, hw, hs, ht, hc]

/-- The shortest valid frame, a command frame, one byte too few, one too many, a wrong length byte and a
wrong check word. -/
theorem witness_FeedFrameIsClassified :
    disabledFeed.state = .disabled ∧ serving.state ≠ .disabled ∧
    errored ((wireOf .sample 1 0).take 11) ∧ errored (List.replicate 253 0) ∧ errored (wireOf .sample 1 0 ++ [0]) ∧
    errored ((wireOf .sample 1 0).set 11 0) ∧
    ¬errored (wireOf .command 0xFFFF 4) ∧ misdirected (wireOf .command 0xFFFF 4) ∧ misdirected (wireOf .sample 0xFFFF 0) ∧
    ¬errored (wireOf .sample 0xFFFE 0) ∧ ¬misdirected (wireOf .sample 0xFFFE 0) ∧
    probing.usable = false ∧ probing.state ≠ .disabled ∧ serving.usable = true := by decide +kernel

theorem witness_LinkDownTakesFeedDown :
    disabledFeed.consistent ∧ disabledFeed.state = .disabled ∧ probing.consistent ∧ probing.state ≠ .disabled ∧
    probing.usable = false ∧ serving.consistent ∧ serving.state ≠ .disabled ∧ serving.usable = true ∧
    rd base.monitors 3 = serving := by
  refine ⟨?_, ?_, ?_, ?_, ?_, ?_, ?_, ?_, ?_⟩ <;> decide +kernel

theorem witness_LinkUpStartsProbation :
    disabledFeed.consistent ∧ disabledFeed.state = .disabled ∧ Monitor.reset.consistent ∧ Monitor.reset.state = .down ∧
    Monitor.reset.current.advisory = false ∧
    ({ Monitor.reset with current := { Settings.reset with advisory := true } }).consistent := by
  refine ⟨?_, ?_, ?_, ?_, ?_, ?_⟩ <;> decide +kernel

/-- The state with the monitor of F1 replaced. -/
def watching (m : Monitor) : State := base.setMonitor 1 m

/-- Each verdict at the edge of its condition, under the power-on settings, at the window's expiry; with no settings
pending, with pending ones of another Q and D, and with pending ones of the same. -/
theorem witness_WindowVerdictUpdatesRuns :
    (rd (watching (judged serving 0 0)).monitors 1).window = some ⟨50000, 0, 0⟩ ∧ serving.pending = none ∧
    (rd (watching { judged serving 0 0 with pending := some { Settings.reset with qualify := 2, disqualify := 1 } }).monitors
      1).window = some ⟨50000, 0, 0⟩ ∧ 2 ≠ Settings.reset.qualify ∧ 1 ≠ Settings.reset.disqualify ∧
    (50000 : Moment) ≤ base.elapsed ∧
    Settings.reset.rejectMargin < (5 : BitVec 16).toNat ∧ (0 : BitVec 16).toNat < Settings.reset.minValid ∧
    ¬(Settings.reset.rejectMargin < (0 : BitVec 16).toNat ∨ (1 : BitVec 16).toNat < Settings.reset.minValid) ∧
    (0 : BitVec 16).toNat ≤ Settings.reset.acceptMargin ∧
    ¬(Settings.reset.rejectMargin < (4 : BitVec 16).toNat ∨ (1 : BitVec 16).toNat < Settings.reset.minValid) ∧
    ¬(4 : BitVec 16).toNat ≤ Settings.reset.acceptMargin := by decide +kernel

/-- The window that qualifies, the one that disqualifies, one that does neither, and one with settings pending. -/
theorem witness_VerdictMovesFeedState :
    (judged { probing with acceptedRun := 2 } 1 0).consistent ∧ Settings.reset.qualify ≤ 2 + 1 ∧
    ¬Settings.reset.qualify ≤ 1 + 1 ∧ (judged { serving with rejectTally := 1 } 1 5).consistent ∧
    Settings.reset.disqualify ≤ 1 + 1 ∧ ¬Settings.reset.disqualify ≤ 0 + 1 ∧ serving.state = .inService ∧
    Settings.reset.advisory = false ∧ probing.usable = false ∧
    (rd (watching (judged serving 1 4)).monitors 1).window = some ⟨50000, 1, 4⟩ ∧ serving.pending = none ∧
    (judged { serving with pending := some { Settings.reset with windowLength := 100 } } 1 0).consistent := by
  refine ⟨?_, ?_, ?_, ?_, ?_, ?_, ?_, ?_, ?_, ?_, ?_, ?_⟩ <;> decide +kernel

/-- No mapping; an unusable feed; a feed not listed; another origin. -/
theorem witness_RefusedCopiesAreOnlyCounted :
    (rd (offering base (copyOf 0 100)).ports 0).offered = [copyOf 0 100] ∧ (copyOf 0 100).feed = 0 ∧
    base.lookup 0x0110 = none ∧ (streaming entry tracking).lookup 0x0110 = some 5 ∧
    (streaming entry tracking).enabledEntry 5 = some entry ∧ probing.usable = false ∧
    (rd (streaming entry tracking).monitors 2).usable = true ∧ (2 : Feed) ∉ entry.feeds ∧ (0 : Feed) ∈ entry.feeds ∧
    ({ entry with origin := some 9 }).origin = some (9 : Byte) ∧ (9 : Byte) ≠ (copyOf 0 100).origin := by decide +kernel

def seeking : Runtime := { Runtime.disabled .zero with mergeState := .seeking }

/-- The state with `n` buffers free. -/
def free (n : Nat) (s : State) : State := { s with pool := ⟨n, false⟩ }

/-- The state with the delivery link down. -/
def unlinked (s : State) : State := { s with delivery := Delivery.reset }

/-- An entry whose first rescue reaches the threshold. -/
def hasty : Entry := { entry with mode := .preferred ⟨true, 5000, 1⟩ }

/-- A deliverable copy; a standby feed's whose rescue reaches the threshold; and no buffer. -/
theorem witness_SeekingFollowsTheFirstCopy :
    let s := free 1 (offered entry seeking (copyOf 0 65535))
    let t := free 1 (offered hasty { seeking with selector := some (primary 0) } (copyOf 1 0))
    (s.admits 0 (copyOf 0 65535) [] 5 entry ∧ (rd s.runtimes 5).mergeState = .seeking ∧
      deliverableFrom entry (rd s.runtimes 5) 0 ∧ s.delivery.linkUp = true ∧ 1 ≤ s.pool.free) ∧
    (t.admits 1 (copyOf 1 0) [] 5 hasty ∧ (rd t.runtimes 5).mergeState = .seeking ∧ (rd t.runtimes 5).hold = [] ∧
      ¬deliverableFrom hasty (rd t.runtimes 5) 1 ∧ t.delivery.linkUp = true ∧ 1 ≤ t.pool.free ∧
      rescueCount none 1 = 1) ∧
    (free 0 s).pool.free = 0 ∧ (free 0 s).admits 0 (copyOf 0 65535) [] 5 entry := by decide +kernel

/-- With nothing held; a fallback and a run of two with no other buffer free; a run across the wrap of sequences; a held
copy of a kept feed; and with the link down. -/
theorem witness_NextCopyIsReleased :
    let s := free 1 (offered entry tracking (copyOf 0 100))
    let held := [copyOf 0 101, copyOf 0 102, copyOf 1 103]
    let r := { selecting with hold := copyOf 1 100 :: held }
    let t := free 0 (offered preferred r (copyOf 0 100))
    let w := { tracking with nes := some 65535, hold := [copyOf 1 0] }
    let u := offered entry w (copyOf 0 65535)
    (s.admits 0 (copyOf 0 100) [] 5 entry ∧ (rd s.runtimes 5).followed ∧ (rd s.runtimes 5).nes = some 100 ∧
      deliverableFrom entry (rd s.runtimes 5) 0 ∧ 1 ≤ s.pool.free ∧ (rd s.runtimes 5).hold = [] ++ [] ∧
      releaseSplit (deliverableFrom entry (rd s.runtimes 5)) 101 [] [] [] ∧ s.delivery.linkUp = true ∧
      s.pool.pressure = false ∧ State.reset.delivery.linkUp = false) ∧
    (t.admits 0 (copyOf 0 100) [] 5 preferred ∧ (rd t.runtimes 5).followed ∧
      deliverableFrom preferred (rd t.runtimes 5) 0 ∧ (rd t.runtimes 5).hold = [copyOf 1 100] ++ held ∧
      (copyOf 1 100).seq = 100 ∧
      releaseSplit (deliverableFrom preferred (rd t.runtimes 5)) 101 held [copyOf 0 101, copyOf 0 102] [copyOf 1 103] ∧
      1 ≤ t.pool.free + 1 ∧ t.delivery.linkUp = true) ∧
    u.admits 0 (copyOf 0 65535) [] 5 entry ∧ (rd u.runtimes 5).nes = some 65535 ∧
    (∀ h ∈ [copyOf 1 0].head?, h.seq ≠ 65535) ∧
    releaseSplit (deliverableFrom entry (rd u.runtimes 5)) (65535 + 1) [copyOf 1 0] [copyOf 1 0] [] ∧
    1 ≤ u.pool.free := by
  intro s held r t w u
  and_intros <;> decide +revert +kernel

/-- The nearest and the farthest early copy and a standby copy of NES, each with 17 buffers free, and a second standby
copy of NES. -/
theorem witness_EarlyAndStandbyCopiesAreHeld :
    let s := free 17 (offered entry tracking (copyOf 0 101))
    let t := free 17 (offered entry tracking (copyOf 0 164))
    let u := free 17 (offered preferred selecting (copyOf 1 100))
    let v := offered preferred { selecting with hold := [copyOf 1 100] } (copyOf 1 100)
    (s.admits 0 (copyOf 0 101) [] 5 entry ∧ (rd s.runtimes 5).followed ∧ (rd s.runtimes 5).nes = some 100 ∧
      (rd s.runtimes 5).hold.length < entry.holdLimit ∧ 16 < s.pool.free ∧ 1 ≤ ((101 : Seq) - 100).toNat ∧
      ∀ h ∈ (rd s.runtimes 5).hold, h.seq ≠ 101) ∧
    (t.admits 0 (copyOf 0 164) [] 5 entry ∧ ((164 : Seq) - 100).toNat ≤ entry.window ∧ entry.window ≤ 1023) ∧
    (u.admits 1 (copyOf 1 100) [] 5 preferred ∧ (rd u.runtimes 5).followed ∧ (rd u.runtimes 5).nes = some 100 ∧
      ¬deliverableFrom preferred (rd u.runtimes 5) 1 ∧ 16 < u.pool.free ∧
      ∀ h ∈ (rd u.runtimes 5).hold.head?, h.seq ≠ 100) ∧
    v.admits 1 (copyOf 1 100) [] 5 preferred ∧ (rd v.runtimes 5).followed ∧ (rd v.runtimes 5).nes = some 100 ∧
    ¬deliverableFrom preferred (rd v.runtimes 5) 1 ∧ ∃ h ∈ (rd v.runtimes 5).hold.head?, h.seq = 100 := by
  intro s t u v
  and_intros <;> decide +revert +kernel

/-- The active feed's copy of a sequence held from a standby feed, and a FIRST stream's second copy. -/
theorem witness_HeldCopyIsReplacedOrDuplicated :
    let s := offered preferred { selecting with hold := [copyOf 1 164] } (copyOf 0 164)
    let t := offered entry { tracking with hold := [copyOf 1 101] } (copyOf 0 101)
    (s.admits 0 (copyOf 0 164) [] 5 preferred ∧ (rd s.runtimes 5).followed ∧ (rd s.runtimes 5).nes = some 100 ∧
      ((164 : Seq) - 100).toNat ≤ preferred.window ∧ preferred.window ≤ 1023 ∧
      (rd s.runtimes 5).hold.find? (fun g => g.seq == 164) = some (copyOf 1 164) ∧ preferred.mode ≠ .first ∧
      (rd s.runtimes 5).active = some 0 ∧ (rd s.runtimes 5).active ≠ some 1) ∧
    t.admits 0 (copyOf 0 101) [] 5 entry ∧ (rd t.runtimes 5).followed ∧ (rd t.runtimes 5).nes = some 100 ∧
    1 ≤ ((101 : Seq) - 100).toNat ∧ (rd t.runtimes 5).hold.find? (fun g => g.seq == 101) = some (copyOf 1 101) ∧
    ¬(entry.mode ≠ .first) := by decide +kernel

/-- One behind NES, and the farthest behind. -/
theorem witness_BehindCopyIsLateDuplicate :
    (offered entry tracking (copyOf 1 99)).admits 1 (copyOf 1 99) [] 5 entry ∧ tracking.followed ∧
    tracking.nes = some 100 ∧ 32768 ≤ ((99 : Seq) - 100).toNat ∧ 32768 ≤ ((32868 : Seq) - 100).toNat := by decide +kernel

/-- The nearest and the farthest out-of-window copy, every row of the candidate table, and the threshold; a standby
feed's copy behind NES in STARVED; and a refused claim. -/
theorem witness_OutOfWindowCopiesLeadToResync :
    let s := offered entry { tracking with candidate := some ⟨32866, 2⟩ } (copyOf 0 32867)
    let r := { selecting with mergeState := MergeState.starved, due := none, candidate := some ⟨32867, 2⟩ }
    let t := offered preferred r (copyOf 1 32868)
    s.admits 0 (copyOf 0 32867) [] 5 entry ∧ (rd s.runtimes 5).followed ∧ (rd s.runtimes 5).nes = some 100 ∧
    entry.window < ((165 : Seq) - 100).toNat ∧ ((32867 : Seq) - 100).toNat < 32768 ∧
    (((32867 : Seq) = 32866 ∧ (⟨32867, 3⟩ : Candidate) = ⟨32866, 2⟩) ∨
      (1 ≤ Machine.dist 32866 32867 ∧ Machine.dist 32866 32867 ≤ entry.window ∧ (⟨32867, 3⟩ : Candidate) = ⟨32867, 2 + 1⟩) ∨
      (entry.window < Machine.dist 32866 32867 ∧ (⟨32867, 3⟩ : Candidate) = ⟨32867, 1⟩)) ∧
    3 = entry.resyncThreshold ∧ 1 ≠ entry.resyncThreshold ∧ entry.window < Machine.dist 165 230 ∧
    1 ≤ s.pool.free + (rd s.runtimes 5).hold.length ∧ s.delivery.linkUp = true ∧
    (t.admits 1 (copyOf 1 32868) [] 5 preferred ∧ (rd t.runtimes 5).mergeState = .starved ∧
      (rd t.runtimes 5).nes = some 100 ∧ 32768 ≤ ((32868 : Seq) - 100).toNat ∧
      ¬deliverableFrom preferred (rd t.runtimes 5) 1 ∧ Machine.dist 32867 32868 = 1) ∧
    (free 0 s).admits 0 (copyOf 0 32867) [] 5 entry ∧ (free 0 s).pool.free = 0 ∧ (rd (free 0 s).runtimes 5).hold = [] := by
  intro s r t
  and_intros <;> decide +revert +kernel

theorem witness_OutOfWindowCandidates :
    candidateRow 64 none 165 ⟨165, 1⟩ ∧ candidateRow 64 (some ⟨165, 2⟩) 165 ⟨165, 2⟩ ∧
    candidateRow 64 (some ⟨165, 2⟩) 229 ⟨229, 3⟩ ∧ candidateRow 64 (some ⟨165, 2⟩) 230 ⟨230, 1⟩ :=
  ⟨rfl, .inl (by decide), .inr (.inl (by decide)), .inr (.inr (by decide))⟩

/-- A release claim with no buffer free, and the hold claims of an early copy and of a fallback with 16. -/
theorem witness_RefusedClaimDropsTheCopy :
    let s := free 0 (offered entry tracking (copyOf 0 100))
    let t := free 16 (offered entry tracking (copyOf 0 101))
    let u := free 16 (offered preferred selecting (copyOf 1 100))
    (s.admits 0 (copyOf 0 100) [] 5 entry ∧ (rd s.runtimes 5).followed ∧ (rd s.runtimes 5).nes = some 100 ∧
      deliverableFrom entry (rd s.runtimes 5) 0 ∧ (∀ h ∈ (rd s.runtimes 5).hold.head?, h.seq ≠ 100) ∧ s.pool.free = 0) ∧
    (u.admits 1 (copyOf 1 100) [] 5 preferred ∧ (rd u.runtimes 5).followed ∧ (rd u.runtimes 5).nes = some 100 ∧
      ¬deliverableFrom preferred (rd u.runtimes 5) 1 ∧ (∀ h ∈ (rd u.runtimes 5).hold.head?, h.seq ≠ 100) ∧
      (rd u.runtimes 5).hold.length < preferred.holdLimit ∧ u.pool.free ≤ 16) ∧
    t.admits 0 (copyOf 0 101) [] 5 entry ∧ 1 ≤ ((101 : Seq) - 100).toNat ∧ ((101 : Seq) - 100).toNat ≤ entry.window ∧
    (∀ h ∈ (rd t.runtimes 5).hold, h.seq ≠ 101) ∧ (rd t.runtimes 5).hold.length < entry.holdLimit ∧ t.pool.free ≤ 16 := by
  intro s t u
  and_intros <;> decide +revert +kernel

def unheld : Entry := { entry with holdLimit := 0 }
def tight : Entry := { entry with holdLimit := 1 }
def tightPreferred : Entry := { preferred with holdLimit := 1 }

/-- With hold limit 0 and the farthest copy, which goes; with the list full and the copy next after the run, which goes or
finds no buffer; with a copy beyond the run, which is held or refused; and a standby copy of NES over a full list. -/
theorem witness_PressureReleaseMakesRoom :
    let s := free 1 (offered unheld tracking (copyOf 0 164))
    let r := { tracking with hold := [copyOf 0 101] }
    let t := free 0 (offered tight r (copyOf 0 102))
    let u := free 17 (offered tight r (copyOf 0 103))
    let v := free 1 (offered tightPreferred { selecting with hold := [copyOf 0 101] } (copyOf 1 100))
    (s.admits 0 (copyOf 0 164) [] 5 unheld ∧ (rd s.runtimes 5).followed ∧ (rd s.runtimes 5).nes = some 100 ∧
      unheld.holdLimit ≤ (rd s.runtimes 5).hold.length ∧ (∀ h ∈ (rd s.runtimes 5).hold, h.seq ≠ 164) ∧
      1 ≤ ((164 : Seq) - 100).toNat ∧ ((164 : Seq) - 100).toNat ≤ unheld.window ∧ unheld.window ≤ 1023 ∧
      s.delivery.linkUp = true ∧ (rd s.runtimes 5).hold = [] ∧ releaseSplit (fun _ => True) 164 [] [] [] ∧
      1 ≤ s.pool.free ∧ releaseSplit (deliverableFrom unheld tracking) 165 [] [] []) ∧
    (t.admits 0 (copyOf 0 102) [] 5 tight ∧ tight.holdLimit ≤ (rd t.runtimes 5).hold.length ∧
      ((101 : Seq) - 100).toNat < ((102 : Seq) - 100).toNat ∧
      releaseSplit (fun _ => True) 101 [copyOf 0 101] [copyOf 0 101] [] ∧ (102 : Seq) = 101 + BitVec.ofNat 16 1 ∧
      deliverableFrom tight r 0 ∧ t.pool.free = 0 ∧ 1 ≤ (free 1 t).pool.free) ∧
    (u.admits 0 (copyOf 0 103) [] 5 tight ∧ (103 : Seq) ≠ 101 + BitVec.ofNat 16 1 ∧ 16 < u.pool.free ∧
      (free 16 u).pool.free ≤ 16) ∧
    v.admits 1 (copyOf 1 100) [] 5 tightPreferred ∧ ¬deliverableFrom tightPreferred (rd v.runtimes 5) 1 ∧
    releaseSplit (fun _ => True) 100 [copyOf 0 101] [] [copyOf 0 101] ∧ tightPreferred.holdLimit ≤ [copyOf 0 101].length ∧
    releaseSplit (deliverableFrom tightPreferred (rd v.runtimes 5)) 101 [copyOf 0 101] [copyOf 0 101] [] := by
  intro s r t u v
  and_intros <;> decide +revert +kernel

/-- NES itself, the farthest copy ahead, a standby feed's copy, and no buffer. -/
theorem witness_StarvedStreamRecovers :
    let r := { tracking with mergeState := MergeState.starved, due := none }
    let s := free 1 (offered entry r (copyOf 0 100))
    let t := free 1 (offered entry r (copyOf 0 32867))
    let u := free 1 (offered hasty { r with selector := some (primary 0) } (copyOf 1 101))
    (s.admits 0 (copyOf 0 100) [] 5 entry ∧ (rd s.runtimes 5).mergeState = .starved ∧ (rd s.runtimes 5).nes = some 100 ∧
      deliverableFrom entry (rd s.runtimes 5) 0 ∧ 1 ≤ s.pool.free ∧ s.delivery.linkUp = true ∧
      (free 0 s).admits 0 (copyOf 0 100) [] 5 entry ∧ (free 0 s).pool.free = 0) ∧
    (u.admits 1 (copyOf 1 101) [] 5 hasty ∧ ¬deliverableFrom hasty (rd u.runtimes 5) 1 ∧ (rd u.runtimes 5).hold = []) ∧
    t.admits 0 (copyOf 0 32867) [] 5 entry ∧ ((32867 : Seq) - 100).toNat < 32768 ∧ (32867 : Seq) ≠ 100 := by
  intro r s t u
  and_intros <;> decide +revert +kernel

/-- At the expiry itself: below the limit with one buffer free, below it with none, and at it. -/
theorem witness_DeadlineWithNothingHeld :
    let s := free 1 (late entry { tracking with placeholderRun := 1 })
    s.enabledEntry 5 = some entry ∧ (rd s.runtimes 5).followed ∧ (rd s.runtimes 5).due = some 51300 ∧
    (rd s.runtimes 5).nes = some 100 ∧ (rd s.runtimes 5).hold = [] ∧ 51300 ≤ s.elapsed ∧
    (rd s.runtimes 5).placeholderRun < entry.placeholderLimit ∧ 1 ≤ s.pool.free ∧ s.delivery.linkUp = true ∧
    (free 0 s).pool.free = 0 ∧ entry.placeholderLimit ≤ 2 := by decide +kernel

/-- A held copy two ahead of NES, long after the expiry; and a fallback whose rescue reaches the threshold, with a copy
that follows and one that does not. -/
theorem witness_DeadlineReleasesTheHeldCopies :
    let s := { late entry { tracking with hold := [copyOf 0 102] } with elapsed := 8589934592 }
    let held := [copyOf 1 100, copyOf 1 101, copyOf 0 103]
    let r := { selecting with hold := held, selector := some { primary 0 with rescueRun := some ⟨1, 2⟩ } }
    let t := late preferred r
    (s.enabledEntry 5 = some entry ∧ (rd s.runtimes 5).followed ∧ (rd s.runtimes 5).due = some 51300 ∧
      (rd s.runtimes 5).nes = some 100 ∧ (rd s.runtimes 5).hold = [copyOf 0 102] ∧ 51300 ≤ s.elapsed ∧
      s.delivery.linkUp = true ∧ releaseSplit (fun _ => True) 102 [copyOf 0 102] [copyOf 0 102] [] ∧
      (copyOf 0 102).seq ≠ 100) ∧
    t.enabledEntry 5 = some preferred ∧ (rd t.runtimes 5).hold = held ∧ 51300 ≤ t.elapsed ∧
    releaseSplit (fun _ => True) 100 held [copyOf 1 100, copyOf 1 101] [copyOf 0 103] ∧
    ¬deliverableFrom preferred (rd t.runtimes 5) 1 ∧ (rd t.monitors 1).usable = true ∧
    rescueCount (some ⟨1, 2⟩) 1 = selection.rescueThreshold := by decide +kernel

/-- With the delivery link down: a first copy, the next copy, an early copy over a full list, a resynchronisation, a
recovery, a placeholder and a held copy meet the hypotheses, and the last free buffer comes back. -/
theorem witness_releases_with_the_link_down :
    let away (s : State) : State := free 1 (unlinked s)
    let starved := { tracking with mergeState := MergeState.starved, due := none }
    let s := away (offered entry seeking (copyOf 0 100))
    let t := away (offered entry tracking (copyOf 0 100))
    let u := away (offered unheld tracking (copyOf 0 164))
    let v := away (offered entry { tracking with candidate := some ⟨32866, 2⟩ } (copyOf 0 32867))
    let w := away (offered entry starved (copyOf 0 100))
    let x := away (late entry tracking)
    let y := away (late entry { tracking with hold := [copyOf 0 102] })
    (s.admits 0 (copyOf 0 100) [] 5 entry ∧ s.delivery.linkUp = false ∧ s.undelivered 1 = 1 ∧ s.handed [reply] = []) ∧
    t.admits 0 (copyOf 0 100) [] 5 entry ∧ u.admits 0 (copyOf 0 164) [] 5 unheld ∧
    v.admits 0 (copyOf 0 32867) [] 5 entry ∧ w.admits 0 (copyOf 0 100) [] 5 entry ∧
    (x.enabledEntry 5 = some entry ∧ 1 ≤ x.pool.free) ∧ y.enabledEntry 5 = some entry ∧
    ((after (.copyTake 0) t).pool.free = 1 ∧ (after (.copyTake 0) t).dataQueue = [] ∧
      (rd (after (.copyTake 0) t).runtimes 5).counters.undeliverable = 1) := by
  intro away starved s t u v w x y
  and_intros <;> decide +revert +kernel

/-- One feed event waiting: of a listed feed for the PREFERRED slot 5, and for every slot of a feed it does not list. -/
theorem witness_FeedEventMarksListingStreams :
    1 ≤ rd ({ streaming preferred selecting with feedEvents := Vector.replicate 4 1 }).feedEvents 0 ∧
    (streaming preferred selecting).enabledEntry 5 = some preferred ∧ preferred.mode ≠ .first ∧
    (0 : Feed) ∈ preferred.feeds ∧ (2 : Feed) ∉ preferred.feeds ∧ entry.mode = .first := by decide +kernel

/-- The state of a review of slot 5 with the selector `q` under the entry `e`; F0 is out of use where `down` says so. -/
def underReview (e : Entry) (q : Selector) (down : Bool) : State :=
  let s := streaming e { tracking with selector := some { q with reviewPending := true } }
  if down then s.setMonitor 0 Monitor.reset else s

def revertingAtOnce : Entry := { entry with mode := .preferred ⟨true, 0, 3⟩ }
def staying : Entry := { entry with mode := .preferred ⟨false, 5000, 3⟩ }

/-- The common hypotheses, and the guard of each clause: the active feed gone with another usable and with none, no
active feed, the best feed active, and a better feed usable under each row of R70; and a re-examination that releases two
copies, one that releases none, and one with NES absent. -/
theorem witness_ReviewSettlesTheSelector :
    let s := underReview preferred (primary 1) false
    let held := [copyOf 0 100, copyOf 0 101, copyOf 1 102]
    ((rd s.runtimes 5).selector = some { primary 1 with reviewPending := true } ∧
      (∀ j : Slot, j < 5 → (rd s.runtimes j).reviewPending = false) ∧ s.enabledEntry 5 = some preferred ∧
      preferred.mode = .preferred selection ∧ (rd s.runtimes 5).nes = some 100 ∧ (rd s.runtimes 5).followed ∧
      s.delivery.linkUp = true) ∧
    (releaseSplit (fun g => some (0 : Feed) = some g) 100 held [copyOf 0 100, copyOf 0 101] [copyOf 1 102] ∧
      releaseSplit (fun g => some (1 : Feed) = some g) 100 held [] held ∧ seeking.nes = none) ∧
    ((underReview preferred (primary 0) true).bestUsable preferred = some 1 ∧
      (rd (underReview preferred (primary 0) true).monitors 0).usable = false) ∧
    (s.setMonitor 0 Monitor.reset |>.setMonitor 1 Monitor.reset).bestUsable preferred = none ∧
    (s.bestUsable preferred = some 0 ∧ (rd s.monitors 1).usable = true ∧ (1 : Feed) ∈ preferred.feeds ∧
      (primary 1).active = some 1 ∧ (primary 0).active = some 0) ∧
    selection.revertive = true ∧ 1 ≤ selection.holdOff ∧ (primary 1).holdOff = none ∧
    ({ primary 1 with holdOff := some 50000 }).holdOff.isSome = true ∧
    staying.mode = .preferred ⟨false, 5000, 3⟩ ∧ revertingAtOnce.mode = .preferred ⟨true, 0, 3⟩ ∧
    (underReview staying (primary 1) false).enabledEntry 5 = some staying ∧
    (underReview revertingAtOnce (primary 1) false).enabledEntry 5 = some revertingAtOnce := by decide +kernel

/-- At the expiry: a better feed usable with a copy of it held, the active feed best, and none usable. -/
theorem witness_HoldOffExpiryReturnsToBestFeed :
    let q : Selector := ⟨.revertWait, some 1, some 50000, none, false⟩
    let s := streaming preferred { tracking with selector := some q, hold := [copyOf 0 100] }
    (rd s.runtimes 5).selector = some q ∧ q.holdOff = some 50000 ∧ 50000 ≤ s.elapsed ∧
    s.enabledEntry 5 = some preferred ∧ preferred.mode = .preferred selection ∧ (rd s.runtimes 5).followed ∧
    (rd s.runtimes 5).nes = some 100 ∧ s.delivery.linkUp = true ∧ s.bestUsable preferred = some 0 ∧
    releaseSplit (fun g => some (0 : Feed) = some g) 100 (rd s.runtimes 5).hold [copyOf 0 100] [] ∧
    s.bestUsable preferred ≠ q.active ∧ (s.setMonitor 0 Monitor.reset).bestUsable preferred = q.active ∧
    (s.setMonitor 0 Monitor.reset |>.setMonitor 1 Monitor.reset).bestUsable preferred = none := by decide +kernel

/-- A frame is foreign on the delivery link (R100). -/
abbrev foreign (frame : List Byte) : Prop :=
  byteAt frame 0 ≠ 0x02 ∨ word16At frame 2 ≠ 0xFFFF ∨ (byteAt frame 7).toNat < 4 ∨ 236 < (byteAt frame 7).toNat

/-- Too short; another kind, another tag, a payload of 3; and a command of 4 payload bytes with 3 and with 4 commands
waiting. -/
theorem witness_DeliveryFrameIsClassified :
    errored ((wireOf .command 0xFFFF 0).take 11) ∧ ¬errored (wireOf .reply 0xFFFF 4) ∧ foreign (wireOf .reply 0xFFFF 4) ∧
    foreign (wireOf .command 0 4) ∧ ¬errored (wireOf .command 0xFFFF 3) ∧ foreign (wireOf .command 0xFFFF 3) ∧
    ¬errored (wireOf .command 0xFFFF 4) ∧ ¬foreign (wireOf .command 0xFFFF 4) ∧
    (List.replicate 3 (command 0 0 [])).length < 4 ∧ 4 ≤ (List.replicate 4 (command 0 0 [])).length := by decide +kernel

theorem witness_DeliveryLinkEventsFlushThePort :
    (({ base with pool := ⟨31, true⟩ }).pool.pressure = true → ({ base with pool := ⟨31, true⟩ }).pool.free < 32) ∧
    (base.pool.pressure = true → base.pool.free < 32) := by decide +kernel

theorem witness_ArbiterServesByTheTable :
    let s := { base with dataQueue := [reply], delivery := { base.delivery with controlQueue := [notice], dataRun := 3 } }
    s.delivery.linkUp = true ∧ s.delivery.transmitter = .idle ∧ s.dataQueue = reply :: [] ∧ s.delivery.dataRun < 4 ∧
    s.delivery.controlQueue = notice :: [] ∧ 4 ≤ s.delivery.dataRun + 1 ∧ base.dataQueue = [] ∧
    base.delivery.controlQueue = [] ∧ State.reset.delivery.linkUp = false := by decide +kernel

theorem witness_CompletionFreesAndRepliesAreAdmitted :
    ({ base.delivery with transmitter := .data reply }).transmitter = .data reply ∧
    ({ base.delivery with transmitter := .control notice }).transmitter = .control notice ∧
    ({ base.delivery with replyWait := [reply] }).replyWait = reply :: [] ∧
    ({ base.delivery with controlQueue := List.replicate 7 notice }).controlQueue.length < 8 ∧
    8 ≤ ({ base.delivery with controlQueue := List.replicate 8 notice }).controlQueue.length ∧
    base.delivery.replyWait = [] := by decide +kernel

/-- The state with one command in the inbox and no session. -/
def unopened (c : Command) : State := { base with inbox := [c] }

/-- The state with the control queue full. -/
def crowded (s : State) : State :=
  { s with delivery := { s.delivery with controlQueue := [reply, reply] ++ List.replicate 6 notice } }

/-- A command meets the hypotheses with a place for its reply, with none, where the reply waits, and with the link down,
where it is discarded. -/
theorem witness_State_sending :
    let c := command 8 0x10 []
    ((unopened c).waiting c [] ∧ (base.sending reply).delivery.controlQueue = [reply]) ∧
    ((crowded (unopened c)).waiting c [] ∧ ((crowded base).sending reply).delivery.replyWait = [reply]) ∧
    (unlinked (unopened c)).waiting c [] ∧ ((unlinked base).sending reply).delivery = Delivery.reset := by decide +kernel

/-- The command waits, and the open session's next sequence is the command's. -/
abbrev ready (s : State) (c : Command) : Prop := s.waiting c [] ∧ s.nextInSession c

/-- The smallest and the largest timeout, one out of range, a session open under the command's token and another, and the
last sequence again with a reply and with a marker in the cache. -/
theorem witness_OpenSessionOpensOrRenews :
    let c := command 8 0x01 [1]
    let d := command 7 0x01 [61]
    let s := asking base c
    let marked := { session with cache := Cache.pendingCommit 0x5A3C 7 }
    (unopened c).waiting c [] ∧ (unopened c).session = none ∧ c.code = 0x01 ∧ c.args = [1] ∧
    1 ≤ (1 : Byte).toNat ∧ (60 : Byte).toNat ≤ 60 ∧ ¬(1 ≤ (0 : Byte).toNat) ∧ ¬((61 : Byte).toNat ≤ 60) ∧
    s.waiting c [] ∧ s.session = some session ∧ session.token = c.token ∧ c.seq ≠ session.last ∧
    ((asking base d).waiting d [] ∧ session.token = d.token ∧ d.seq = session.last ∧
      session.cache = .reply ⟨0x5A3C, 7, 0x01, .ok, [0, 0, 0, 0, 10]⟩ ∧ marked.cache = .pendingCommit 0x5A3C 7) ∧
    session.token ≠ ({ c with token := 1 }).token := by decide +kernel

theorem witness_CloseSessionEndsTheSession :
    let c := command 8 0x02 []
    let d := command 8 0x02 [0]
    c.code = 0x02 ∧ ready (asking base c) c ∧ c.args = [] ∧ d.code = 0x02 ∧ ready (asking base d) d ∧ d.args ≠ [] ∧
    (unopened c).waiting c [] ∧ (unopened c).session = none := by decide +kernel

/-- No session; another token; the last sequence with a reply and with a marker; and a sequence two ahead. -/
theorem witness_TokenAndSequenceGuardExecution :
    let c := command 7 0x33 []
    let marked := { session with cache := Cache.pendingCommit 0x5A3C 7 }
    (.commit ∈ sessionCommands ∨ .commit ∈ openCommands) ∧ takesCommand .commit c = true ∧
    (unopened c).waiting c [] ∧ (unopened c).foreignToken c ∧
    ({ asking base c with session := some { session with token := 1 } }).foreignToken c ∧
    (asking base c).waiting c [] ∧ (asking base c).session = some session ∧
    session.token = c.token ∧ c.seq = session.last ∧
    session.cache = .reply ⟨0x5A3C, 7, 0x01, .ok, [0, 0, 0, 0, 10]⟩ ∧ marked.cache = .pendingCommit 0x5A3C 7 ∧
    (9 : Byte) ≠ session.last ∧ (9 : Byte) ≠ session.last + 1 := by decide +kernel

theorem witness_IdleExpiryClosesTheSession :
    ({ base with session := some session }).session = some session ∧
    session.idleExpiry ≤ 10050000 ∧
    10049999 < session.idleExpiry := by decide +kernel

/-- Each open command taken by its row, stateless and as the session's next; and a slot with no staged change and with
one. -/
theorem witness_OpenCommandsOnlyAnswer :
    (∀ p ∈ [(Instr.status, command 8 0x10 []), (.readNotices, command 8 0x13 []), (.readFeed, command 8 0x12 [feedByte 3]),
        (.readStream, command 8 0x11 [slotByte 255, 0]), (.readStream, command 8 0x11 [slotByte 255, 1]),
        (.readStream, command 8 0x11 [slotByte 255, 2]), (.readStream, command 8 0x11 [slotByte 255, 3]),
        (.readStream, command 8 0x11 [slotByte 255, 4]), (.readFeed, command 8 0x12 [4]),
        (.unknownCommand, command 8 0xFF [])],
      takesCommand p.1 p.2 = true ∧ ready (asking base p.2) p.2 ∧ (unopened p.2).waiting p.2 [] ∧ (unopened p.2).foreignToken p.2) ∧
    3 < (4 : Byte).toNat ∧ (asking base (command 8 0x11 [])).stagingList = [] ∧
    (busy.stagingList.find? fun x => x.slot == 7) = some ⟨7, .write { entry with tag := 0x0111 }⟩ := by decide +kernel

/-- Each command with one argument byte too many, as the session's next, and stateless for an open command. -/
theorem witness_WrongLengthIsBadArgument :
    ∀ p ∈ [(Instr.closeSession, (0x02 : Byte)), (.status, 0x10), (.readStream, 0x11), (.readFeed, 0x12),
        (.readNotices, 0x13), (.setFeed, 0x20), (.setNotices, 0x21), (.clearCounters, 0x22), (.restartStream, 0x23),
        (.ackAlarms, 0x24), (.resetPartRestart, 0x2F), (.stageWrite, 0x30), (.stageRemove, 0x31), (.unstage, 0x32),
        (.commit, 0x33)],
      let c := command 8 p.2 (List.replicate ((argumentLength p.1).getD 0 + 1) 0)
      takesCommand p.1 c = true ∧ ready (asking base c) c ∧ (argumentLength p.1).isSome = true ∧
      some c.args.length ≠ argumentLength p.1 ∧ (unopened c).waiting c [] ∧
      (unopened c).foreignToken c := by decide +kernel

/-- A feed in PROBATION that advisory makes usable. -/
def advising : Monitor := { probing with current := { Settings.reset with advisory := true }, usable := true }

/-- Each value one out of range; settings that wait, that set and clear advisory, that are adopted at once; a disable of a
feed in use and of one in PROBATION; and an enable with the link down and up. -/
theorem witness_SetFeedTakesTheSettings :
    let advisory := { Settings.reset with advisory := true }
    let off := { Settings.reset with disabled := true }
    let c := command 8 0x20 (feedByte 1 :: settingsRecord advisory)
    let bad (n : Nat) (v : Byte) := command 8 0x20 ((1 :: settingsRecord Settings.reset).set n v)
    (∀ d ∈ [bad 0 4, bad 7 0, bad 7 16, bad 8 0, bad 8 16, bad 5 5, command 8 0x20 ([1, 0, 99] ++ (bad 0 1).args.drop 3)],
      ready (asking base d) d ∧ d.code = 0x20 ∧ d.args.length = 10 ∧
      (3 < (byteAt d.args 0).toNat ∨ (word16At d.args 1).toNat < 100 ∨ (byteAt d.args 6).toNat < (byteAt d.args 5).toNat ∨
        (byteAt d.args 7).toNat = 0 ∨ 15 < (byteAt d.args 7).toNat ∨ (byteAt d.args 8).toNat = 0 ∨
        15 < (byteAt d.args 8).toNat)) ∧
    (ready (asking base c) c ∧ c.code = 0x20 ∧ advisory.wellFormed = true ∧ off.wellFormed = true ∧
      Settings.reset.wellFormed = true ∧ rd base.monitors 1 = serving) ∧
    (serving.window.isSome = true ∧ serving.state = .inService ∧ serving.usable = true ∧ serving.current.disabled = false) ∧
    (probing.window.isSome = true ∧ probing.usable = false ∧ probing.state ≠ .inService ∧ advising.window.isSome = true ∧
      advising.usable = true ∧ advising.state ≠ .inService ∧ Settings.reset.advisory = false) ∧
    Monitor.reset.window = none ∧ disabledFeed.current.disabled = true ∧ disabledFeed.link = true ∧
    ({ disabledFeed with link := false }).link = false ∧ Settings.reset.disabled = false := by
  refine ⟨?_, ?_, ?_, ?_, ?_⟩ <;> decide +kernel

theorem witness_SetFeedMonitors :
    serving.consistent ∧ probing.consistent ∧ advising.consistent ∧ Monitor.reset.consistent ∧ disabledFeed.consistent ∧
    ({ disabledFeed with link := false }).consistent := by
  refine ⟨?_, ?_, ?_, ?_, ?_, ?_⟩ <;> decide +kernel

/-- The bounds of maximum and interval, and one value beyond each. -/
theorem witness_SetNoticesReplacesTheSettings :
    let c := command 8 0x21 [0, 0, 1, 0, 1]
    let d := command 8 0x21 [0, 0, 16, 0x03, 0xE8]
    ready (asking base c) c ∧ c.code = 0x21 ∧ c.args.length = 5 ∧ 1 ≤ (byteAt c.args 2).toNat ∧
    1 ≤ (word16At c.args 3).toNat ∧ (byteAt d.args 2).toNat ≤ 16 ∧ (word16At d.args 3).toNat ≤ 1000 ∧
    ¬((17 : Byte).toNat ≤ 16) ∧ ¬(1 ≤ (0 : Byte).toNat) ∧ ¬((1001 : BitVec 16).toNat ≤ 1000) := by decide +kernel

/-- Every type and number, among them the last slot and feed, and one beyond. -/
theorem witness_ClearCountersClearsItsTarget :
    (∀ a b : Byte, ready (asking base (command 8 0x22 [a, b])) (command 8 0x22 [a, b])) ∧ slotByte 255 = 255 ∧
    feedByte 3 = 3 ∧ 3 < (4 : Byte).toNat :=
  ⟨fun _ _ => ⟨⟨rfl, rfl⟩, rfl⟩, by decide⟩

/-- A FIRST stream, a PREFERRED one whose held copies bring the free buffers to 32 with the flag set, and a slot that is not
ENABLED. -/
theorem witness_RestartStreamSeeksAgain :
    let c := command 8 0x23 [slotByte 5]
    let s := asking (streaming entry tracking) c
    let t := { asking (streaming preferred { selecting with hold := [copyOf 1 100, copyOf 0 101] }) c with
      pool := ⟨30, true⟩ }
    ready s c ∧ s.enabledEntry 5 = some entry ∧ entry.mode = .first ∧ (rd s.runtimes 5).selector = none ∧
    ready t c ∧ t.pool.pressure = true ∧ 32 ≤ t.pool.free + (rd t.runtimes 5).hold.length ∧
    t.enabledEntry 5 = some preferred ∧ preferred.mode = .preferred selection ∧
    (rd t.runtimes 5).selector = some (primary 0) ∧ (asking base c).enabledEntry 5 = none := by decide +kernel

theorem witness_AckAlarmsClearsUnheldLatches :
    (∀ a b : Byte, ready (asking base (command 8 0x24 [a, b])) (command 8 0x24 [a, b])) ∧ 4 < (5 : Byte).toNat ∧
    3 < (4 : Byte).toNat ∧ ¬(4 < (4 : Byte).toNat) :=
  ⟨fun _ _ => ⟨⟨rfl, rfl⟩, rfl⟩, by decide⟩

/-- A RESTART with a commit queued behind a sync, its reply with a place, with none and with the link down; a switch; and a
level that is none. -/
theorem witness_RestartSeeksEveryStream :
    let c := command 8 0x2F [1]
    let s := asking { (streaming preferred selecting).setMonitor 0 Monitor.reset with
      engine := .syncing [] (some removal) } c
    (s.waiting c [] ∧ (crowded s).waiting c [] ∧ (unlinked s).waiting c [] ∧ s.nextInSession c ∧
      s.engine.abandoned = [removal]) ∧
    c.code = 0x2F ∧ c.args = [1] ∧ (3 : Byte) ≠ 1 ∧ (3 : Byte) ≠ 2 ∧
    s.enabledEntry 5 = some preferred ∧ preferred.mode = .preferred selection ∧
    (rd s.runtimes 5).selector = some (primary 0) ∧ (primary 0).active ≠ s.bestUsable preferred ∧
    s.enabledEntry 6 = none ∧
    (streaming entry tracking).enabledEntry 5 = some entry ∧ entry.mode = .first ∧ tracking.selector = none := by
  decide +kernel

/-- A CLEAR with a commit in prepare, with the link up and down. -/
theorem witness_ClearEmptiesThePart :
    let c := command 8 0x2F [2]
    let s := asking { streaming entry tracking with engine := .preparing removal true } c
    s.waiting c [] ∧ s.delivery.linkUp = true ∧ (unlinked s).waiting c [] ∧ (unlinked s).delivery.linkUp = false ∧
    s.nextInSession c ∧ c.code = 0x2F ∧ c.args = [2] := by decide +kernel

/-- A session with `l` staged. -/
def withStaged (l : List StagedChange) (c : Command) : State :=
  { asking base c with session := some { session with staging := l } }

/-- Sixteen removals, for slots 0 to 15. -/
def sixteen : List StagedChange := (List.range 16).map fun n => ⟨slotOf (byteOf n), .remove⟩

/-- A slot already staged, one that joins a list of 15, and one that meets a full list; a record that fails its check;
and UNSTAGE with and without the slot's change. -/
theorem witness_StagingKeepsOneChangePerSlot :
    let c := command 8 0x30 (slotByte 255 :: entryRecord entry)
    let d := command 8 0x31 [slotByte 255]
    let u := command 8 0x32 [slotByte 15]
    (takesCommand .stageWrite c = true ∧ ready (withStaged [] c) c ∧ (entryRecord entry).length = 23 ∧
      (checkRecord (entryRecord entry)).toOption = some entry ∧ (record 0 0 [0, 0] 0).length = 23 ∧
      (checkRecord (record 0 0 [0, 0] 0)).toOption = none) ∧
    (takesCommand .stageRemove d = true ∧ ready (withStaged sixteen d) d ∧ (∀ x ∈ sixteen, x.slot ≠ 255) ∧
      16 ≤ sixteen.length ∧ (sixteen.take 15).length < 16) ∧
    takesCommand .unstage u = true ∧ ready (withStaged sixteen u) u ∧ (∃ x ∈ sixteen, x.slot = 15) ∧
    ¬∃ x ∈ sixteen.take 15, x.slot = 15 := by
  refine ⟨⟨?_, ?_, ?_, ?_, ?_, ?_⟩, ⟨?_, ?_, ?_, ?_, ?_⟩, ?_, ?_, ?_, ?_⟩ <;> decide +kernel

/-- A write of slot 6 with the tag of slot 5. -/
def clash : StagedChange := ⟨6, .write entry⟩

/-- Each engine state, another generation, a clash of tags with an untouched slot, and a list without one. -/
theorem witness_CommitIsCheckedInOrder :
    let c := command 8 0x33 [0, 0, 0, 0]
    let s := { withStaged [clash] c with bankA := bankOf 5 entry }
    (ready s c ∧ c.code = 0x33 ∧ c.args.length = 4 ∧ word32At c.args 0 = s.generation ∧ s.engine = .ready) ∧
    (clash.change = .write entry ∧ entry.enabled = true ∧ s.liveEntry 5 = some entry ∧ (5 : Slot) ≠ clash.slot ∧
      ([clash].find? fun x => x.slot == (5 : Slot)) = none ∧ [clash] = [] ++ clash :: []) ∧
    (∀ x ∈ sixteen, x.change = .remove) ∧ word32At [0, 0, 0, 1] 0 ≠ s.generation ∧
    ({ s with engine := .preparing removal true }).engine = .preparing removal true ∧
    ({ s with engine := .syncing [] none }).engine = .syncing [] none := by
  refine ⟨⟨?_, ?_, ?_, ?_, ?_⟩, ⟨?_, ?_, ?_, ?_, ?_, ?_⟩, ?_, ?_, ?_, ?_⟩ <;> decide +kernel

theorem witness_PrepareAndSyncWriteTheChanges :
    (sixteen.map (·.slot)).Nodup ∧ (∃ x ∈ sixteen, x.slot = 15) ∧ (∀ x ∈ sixteen, x.slot ≠ 16) ∧
    ({ base with engine := .preparing removal false }).engine = .preparing removal false ∧
    ({ base with engine := .syncing [] none }).engine = .syncing [] none ∧
    ({ base with engine := .syncing [] (some removal) }).engine = .syncing [] (some removal) ∧
    base.engine = .ready := by decide +kernel

/-- The removal of slot 5; a slot enabled, disabled and left empty by a change; and retunes of a FIRST stream with held
copies and of a PREFERRED one, whose active feed stays or is dropped with a copy of the new one held. -/
theorem witness_SwapMakesTheTableLive :
    let added := ({ base with bankB := bankOf 5 entry }).standbyBank
    let disabled := (bankOf 5 { entry with enabled := false })
    let narrow := { entry with window := 1 }
    let moved := { preferred with feeds := [1] }
    let held := [copyOf 1 100, copyOf 0 101]
    let r := { selecting with hold := held }
    let s := { streaming preferred r with bankB := bankOf 5 moved }
    let q := s.reviewed moved selection (primary 0)
    swapping.engine = .preparing removal true ∧ (removal.changes.map (·.slot)).Nodup ∧
    swapping.delivery.replyWait = [] ∧ (∃ x ∈ removal.changes, x.slot = 5) ∧ (∀ x ∈ removal.changes, x.slot ≠ 4) ∧
    ((rd swapping.liveBank.slots 5).filter (·.enabled) = some entry ∧ rd swapping.standbyBank.slots 5 = none) ∧
    ((rd base.liveBank.slots 5).filter (·.enabled) = none ∧ (rd added.slots 5).filter (·.enabled) = some entry) ∧
    (rd disabled.slots 5).isSome = true ∧ (rd disabled.slots 5).filter (·.enabled) = none ∧
    ({ entry with tag := 0x0111 }).tag ≠ entry.tag ∧ (preferred.mode = .first ↔ entry.mode ≠ .first) ∧
    (narrow.tag = entry.tag ∧ ({ tracking with hold := [copyOf 0 101, copyOf 0 102] }).trimmed narrow = [copyOf 0 101] ∧
      tracking.nes ≠ none) ∧
    ((rd s.liveBank.slots 5).filter (·.enabled) = some preferred ∧ (rd s.standbyBank.slots 5).filter (·.enabled) = some moved ∧
      preferred.tag = moved.tag ∧ preferred.mode ≠ .first ∧ moved.mode = .preferred selection ∧
      (rd s.runtimes 5).selector = some (primary 0) ∧ r.trimmed moved = [copyOf 1 100] ∧ q.active = some 1 ∧
      releaseSplit (fun g => some (1 : Feed) = some g) 100 [copyOf 1 100] [copyOf 1 100] [] ∧ r.followed ∧
      s.delivery.linkUp = true ∧ (s.reviewed preferred selection (primary 0)).active = some 0) ∧
    base.engine ≠ .preparing removal true := by
  refine ⟨?_, ?_, ?_, ?_, ?_, ?_, ?_, ?_, ?_, ?_, ?_, ?_, ?_, ?_⟩ <;> decide +kernel

/-- A notice from before a setting of the mask and one from since; a masked kind, a known record, a new record below 32 and
one at 32; and the notice of a slot that is EMPTY and of one that is not. -/
theorem witness_RaisedNoticesAreQueuedOrLost :
    let u := { base.notices with raised := [gapNotice 1], queue := [recordOf (gapNotice 3) 255 0 0] }
    let full := (List.range 32).map fun n => recordOf ⟨.streamGap, .stream (slotOf (byteOf (n + 32))), 0, 0⟩ 1 0 0
    base.notices.earlier = [] ∧ base.notices.raised = [] ∧ u.earlier = [] ∧
    ({ u with earlier := [gapNotice 2] }).earlier = gapNotice 2 :: [] ∧ u.raised = gapNotice 1 :: [] ∧
    u.mask.getLsbD (gapNotice 1).kind.bit = true ∧
    (0x1FFB : BitVec 16).getLsbD (gapNotice 1).kind.bit = false ∧
    (∃ r ∈ u.queue, r.kind = (gapNotice 1).kind ∧ r.subject = (gapNotice 1).subject) ∧
    (¬∃ r ∈ full, r.kind = (gapNotice 1).kind ∧ r.subject = (gapNotice 1).subject) ∧ (full.take 31).length < 32 ∧
    32 ≤ full.length ∧ (streaming entry tracking).liveEntry 20 = none ∧
    (streaming entry tracking).liveEntry 5 = some entry := by decide +kernel

/-- One credit and the last places; and the refill timer at its expiry and a microsecond before it. -/
theorem witness_NoticesMoveAgainstCredits :
    let s := { base with
      notices := { base.notices with queue := [recordOf (gapNotice 3) 1 0 0], credits := 1 }
      delivery := { base.delivery with controlQueue := [reply, reply] ++ List.replicate 5 notice } }
    s.notices.queue = recordOf (gapNotice 3) 1 0 0 :: [] ∧ 1 ≤ s.notices.credits ∧ s.delivery.linkUp = true ∧
    s.delivery.controlQueue.length < 8 ∧ (s.delivery.controlQueue.filter fun f => f.kind == .notice).length < 6 ∧
    s.delivery.replyWait = [] ∧ base.notices.queue = [] ∧
    base.notices.refillExpiry ≤ base.elapsed ∧
    49999 < base.notices.refillExpiry := by decide +kernel

end Sys2Proof.Tests
end

section
/-! The statements on copies of a sequence already held (R34) and on copies behind NES (R38). -/

namespace Sys2Proof.Machine

/-! ### A copy taken, in terms of the stream's view -/

/-- A copy from a listed feed and of the stream's origin, if the entry names one, is admitted (R24). -/
theorem StreamView.admitCopy_listed (c : StreamCtx) (v : StreamView) (copy : Copy) (hl : copy.feed ∈ c.entry.feeds)
    (ho : c.entry.origin = none ∨ c.entry.origin = some copy.origin) : v.admitCopy c copy = v.arrive c copy := by
  have origin : ¬(c.entry.origin.isSome && c.entry.origin != some copy.origin) = true := by
    rcases ho with h | h <;> simp [h]
  rw [StreamView.admitCopy, if_neg (by simpa using hl), if_neg origin]

section Taking

variable {s : State} {f : Feed} {copy : Copy} {rest : List Copy} {i : Slot} {e : Entry}

/-- An admitted copy passes every check of R17 and R24, so that taking it is the arrival at its stream. -/
theorem State.copyTake_admitted (h : s.admits f copy rest i e) :
    s.copyTake f = (s.taken f rest).putStream i ((s.streamView i).arrive (s.streamCtx i e false) copy) := by
  obtain ⟨hoffered, hfeed, hslot, hentry, husable, hlisted, horigin⟩ := h
  have take : s.copyTake f = (s.taken f rest).takeCopy copy := by
    simp only [State.copyTake, hoffered, State.taken]
  have pass : (s.taken f rest).takeCopy copy =
      (s.taken f rest).onStream i false fun c v => v.admitCopy c copy := by
    have lookup : (s.taken f rest).lookup copy.tag = some i := hslot
    have usable : (rd (s.taken f rest).monitors copy.feed).usable = true := hfeed ▸ husable
    simp [State.takeCopy, lookup, usable]
  have live : (s.taken f rest).enabledEntry i = some e := hentry
  have arrival := StreamView.admitCopy_listed (s.streamCtx i e false) (s.streamView i) copy (hfeed ▸ hlisted) horigin
  rw [take, pass, State.onStream, live, ← arrival]
  rfl

/-- An event that changes only the stream's runtime record changes only that record of the state. -/
theorem State.putStream_record (s : State) (i : Slot) (r : Runtime) :
    s.putStream i { s.streamView i with rt := r } = s.setRuntime i r := by
  simp [State.putStream, State.streamView, State.setRuntime]

/-- COPY_TAKE in a followed stream whose record alone the copy's fate changes. -/
theorem exec_copyTake_record {n : Seq} {r : Runtime} (h : s.admits f copy rest i e)
    (hf : (rd s.runtimes i).followed) (hn : (rd s.runtimes i).nes = some n)
    (hr : (s.streamView i).arriveFollowing (s.streamCtx i e false) n copy = { s.streamView i with rt := r }) :
    exec (.copyTake f) s = .next ((s.taken f rest).setRuntime i r) := by
  have arrival : (s.streamView i).arrive (s.streamCtx i e false) copy = { s.streamView i with rt := r } := by
    rw [StreamView.arrive_followed _ _ copy n hf hn, hr, StreamView.reexamine_unswitched _ _ rfl]
  calc exec (.copyTake f) s
    _ = .next (s.copyTake f) := rfl
    _ = .next ((s.taken f rest).putStream i { s.streamView i with rt := r }) := by
      rw [State.copyTake_admitted h, arrival]
    _ = .next ((s.taken f rest).setRuntime i r) := congrArg _ ((s.taken f rest).putStream_record i r)

end Taking

/-! ### The fate of a copy by its distance (R30 to R39) -/

section Fate

variable (c : StreamCtx) (v : StreamView) (n : Seq) (copy : Copy)

theorem StreamView.arriveFollowing_behind (h : 32768 ≤ dist n copy.seq) :
    v.arriveFollowing c n copy = v.lateDuplicate := by
  have nonzero : dist n copy.seq ≠ 0 := by omega
  simp [StreamView.arriveFollowing, nonzero, behind, h]

/-- A window is at most 1023 (R10), so that a copy within it is never behind. -/
theorem StreamView.arriveFollowing_ahead (h : 1 ≤ dist n copy.seq) (hw : dist n copy.seq ≤ c.entry.window)
    (hc : c.entry.window ≤ 1023) : v.arriveFollowing c n copy = v.arriveAhead c n copy := by
  have nonzero : dist n copy.seq ≠ 0 := by omega
  have near : ¬32768 ≤ dist n copy.seq := by omega
  simp [StreamView.arriveFollowing, nonzero, behind, near, hw]

/-- The copy is from the active feed of a PREFERRED stream and the held one is not: the condition of R34. -/
theorem deliverable_unlike_held (e : Entry) (r : Runtime) (f g : Feed) :
    (deliverableFrom e r f ∧ ¬deliverableFrom e r g) ↔
      (e.mode ≠ .first ∧ r.active = some f ∧ r.active ≠ some g) := by
  by_cases first : e.mode = .first <;> simp [deliverableFrom, first]

theorem StreamView.arriveAhead_held {h : Copy} (hh : v.rt.hold.find? (fun g => g.seq == copy.seq) = some h) :
    v.arriveAhead c n copy =
      if deliverableFrom c.entry v.rt copy.feed ∧ ¬deliverableFrom c.entry v.rt h.feed then
        { v with rt := { v.rt with hold := replaceHeld copy v.rt.hold, candidate := none } }
      else v.lateDuplicate.clearCandidate := by
  have better : (v.deliverable c copy.feed && !v.deliverable c h.feed) = true ↔
      deliverableFrom c.entry v.rt copy.feed ∧ ¬deliverableFrom c.entry v.rt h.feed := by
    simp only [← StreamView.deliverable_iff, Bool.and_eq_true, Bool.not_eq_true', Bool.not_eq_true]
  simp only [StreamView.arriveAhead, hh]
  exact if_congr better rfl rfl

end Fate

/-! ### The statements -/

/-- Settles O26: R34's condition is that the copy is deliverable and the held one is not, and each branch of the arrival
ahead of NES changes the record alone. -/
theorem heldCopyIsReplacedOrDuplicated : Obligations.HeldCopyIsReplacedOrDuplicated := by
  intro s f copy h rest i e n ha hf hn h1 hw hc hh r better
  have fate : (s.streamView i).arriveFollowing (s.streamCtx i e false) n copy =
      if better then { s.streamView i with rt := { r with hold := replaceHeld copy r.hold, candidate := none } }
      else (s.streamView i).lateDuplicate.clearCandidate := by
    obtain ⟨-, rfl, -⟩ := ha
    rw [StreamView.arriveFollowing_ahead (s.streamCtx i e false) _ n copy h1 hw hc,
      StreamView.arriveAhead_held _ _ n copy hh]
    exact if_congr (deliverable_unlike_held e r copy.feed h.feed) rfl rfl
  constructor
  · intro hb
    exact exec_copyTake_record ha hf hn (fate.trans (if_pos hb))
  · intro hb
    exact exec_copyTake_record ha hf hn (fate.trans (if_neg hb))

/-- Settles O27: at a distance of 32768 or more the arrival in a followed stream counts the late duplicate in the record
and does nothing else. -/
theorem behindCopyIsLateDuplicate : Obligations.BehindCopyIsLateDuplicate := by
  intro s f copy rest i e n ha hf hn hd r
  exact exec_copyTake_record ha hf hn (StreamView.arriveFollowing_behind _ _ n copy hd)

end Sys2Proof.Machine
end

section
/-! The statement on the link-down event (R85). -/

namespace Sys2Proof.Machine

/-! ### The monitor's record at a link-down event (R85) -/

/-- With both runs at 0 the clamp of R89 does nothing, so that adopting leaves only the settings changed. -/
theorem Monitor.adopt_of_runs_zero (m : Monitor) (ha : m.acceptedRun = 0) (hr : m.rejectTally = 0) :
    m.adopt = { m with current := m.pending.getD m.current, pending := none } := by
  have clamp (old new : Nat) : clampRun old new 0 = 0 := by simp [clampRun]
  obtain ⟨state, link, current, pending, window, acceptedRun, rejectTally, usable, counters⟩ := m
  subst ha hr
  cases pending with
  | none => rfl
  | some p => simp [Monitor.adopt, clamp]

theorem Monitor.linkDown_of_disabled (m : Monitor) (h : m.state = .disabled) :
    m.linkDown = { m with link := false } := if_pos h

theorem Monitor.linkDown_of_not_disabled (m : Monitor) (h : m.state ≠ .disabled) :
    m.linkDown = { m with
      link := false, state := .down, window := none, acceptedRun := 0, rejectTally := 0
      current := m.pending.getD m.current, pending := none } :=
  (if_neg h).trans (Monitor.adopt_of_runs_zero _ rfl rfl)

/-- No state makes a feed with its link down usable (R87). -/
theorem Monitor.usability_of_link_down (m : Monitor) (h : m.link = false) : m.usability = false := by
  simp [Monitor.usability, h]

theorem Monitor.usability_of_disabled (m : Monitor) (h : m.state = .disabled) : m.usability = false := by
  simp [Monitor.usability, h]

theorem Monitor.linkDown_link (m : Monitor) : m.linkDown.link = false := by
  by_cases h : m.state = .disabled
  · rw [Monitor.linkDown_of_disabled m h]
  · rw [Monitor.linkDown_of_not_disabled m h]

theorem Monitor.linkDown_usability (m : Monitor) : m.linkDown.usability = false :=
  m.linkDown.usability_of_link_down m.linkDown_link

/-! ### The event -/

section LinkDown

variable (s : State) (f : Feed)

/-- On an unusable feed the event publishes nothing: the receive store is emptied and the record takes effect. -/
theorem State.feedLinkDown_of_unusable (h : (rd s.monitors f).usable = false) :
    s.feedLinkDown f = (s.setPort f { rd s.ports f with receiveStore := [] }).setMonitor f
      { (rd s.monitors f).linkDown with usable := false } := by
  have unusable := (rd s.monitors f).linkDown_usability
  have published := State.publish_same (s.setPort f { rd s.ports f with receiveStore := [] }) f
    (rd s.monitors f).linkDown .linkDown (h.trans unusable.symm)
  rw [unusable] at published
  exact published

/-- A usable feed becomes unusable, with the effects of R88 and cause link down. -/
theorem State.feedLinkDown_of_usable (h : (rd s.monitors f).usable = true) :
    s.feedLinkDown f = { (s.setPort f { rd s.ports f with receiveStore := [] }).setMonitor f
        { (rd s.monitors f).linkDown with usable := false } with
      feedEvents := wr s.feedEvents f (rd s.feedEvents f + 1)
      feedLatches := wr s.feedLatches f true
      notices := s.notices.raising [⟨.feedUnusable, .feed f, 0xFFFF, 0x0100⟩] } :=
  State.publish_down (s.setPort f { rd s.ports f with receiveStore := [] }) f (rd s.monitors f).linkDown .linkDown h
    (rd s.monitors f).linkDown_usability

end LinkDown

/-! ### The statement -/

/-- Settles O18: the record of R85 is never usable, so that R88's effects follow exactly when the feed was usable before;
a consistent DISABLED feed was not (R87). -/
theorem linkDownTakesFeedDown : Obligations.LinkDownTakesFeedDown := by
  intro s f consistent m t down
  have record (enabled : m.state ≠ .disabled) : { m.linkDown with usable := false } = down := by
    rw [Monitor.linkDown_of_not_disabled m enabled]
  refine ⟨fun disabled => ?_, fun enabled unusable => ?_, fun enabled usable => ?_⟩
  · have unusable : m.usable = false := by
      obtain ⟨-, -, -, -, -, -, -, -, -, -, -, published⟩ := consistent
      exact published.trans (m.usability_of_disabled disabled)
    have linkOnly : { m.linkDown with usable := false } = { m with link := false } := by
      rw [Monitor.linkDown_of_disabled m disabled, ← unusable]
    rw [← linkOnly]
    exact congrArg _ (s.feedLinkDown_of_unusable f unusable)
  · rw [← record enabled]
    exact congrArg _ (s.feedLinkDown_of_unusable f unusable)
  · rw [← record enabled]
    exact congrArg _ (s.feedLinkDown_of_usable f usable)

end Sys2Proof.Machine
end

section
/-! What groups of commands leave alone: the fields of `Kept` that hold for every property that does not look at what the
group changes. -/

namespace Sys2Proof.Machine

/-! ### Feed events -/

/-- The fields of `Kept` for the events of feeds. -/
structure FeedsKept (I : State → Prop) : Prop where
  feedFrame : ∀ s f bytes, I s → I (s.feedFrameReceived f bytes)
  linkDown : ∀ s f, I s → I (s.feedLinkDown f)
  linkUp : ∀ s f, I s → I (s.feedLinkUp f)
  window : ∀ s f, I s → I (s.windowExpiry f)
  setFeed : ∀ s f p, p.wellFormed = true → I s → I (s.applySettings f p)

theorem FeedsKept.of_change {I : State → Prop} (change : ∀ s t, FeedChange s t → I s → I t) : FeedsKept I where
  feedFrame s f bytes := change _ _ (s.feedFrameReceived_change f bytes)
  linkDown s f := change _ _ (s.feedLinkDown_change f)
  linkUp s f := change _ _ (s.feedLinkUp_change f)
  window s f := change _ _ (s.windowExpiry_change f)
  setFeed s f p _ := change _ _ (s.applySettings_change f p)

/-! ### Events of streams -/

/-- The fields of `Kept` for the events of streams. -/
structure StreamsKept (I : State → Prop) : Prop where
  review : ∀ s, I s → I s.selectorReview
  holdOff : ∀ s i, I s → I (s.holdOffExpiry i)
  take : ∀ s f, I s → I (s.copyTake f)
  due : ∀ s i, I s → I (s.dueExpiry i)
  restartStream : ∀ s i, I s → I (s.onStream i false fun c v => v.restart c)

/-- Taking a copy counts it on its feed, or is the event of one stream (R17, R24). -/
theorem State.copyTake_cases (s : State) (f : Feed) : s.copyTake f = s ∨
    (∃ p g k, s.copyTake f = (s.setPort f p).countFeed g k) ∨
    ∃ p i copy, s.copyTake f = (s.setPort f p).onStream i false fun c v => v.admitCopy c copy := by
  simp only [State.copyTake]
  split
  · exact .inl rfl
  · simp only [State.takeCopy]
    split
    · exact .inr (.inl ⟨_, _, _, rfl⟩)
    · split
      · exact .inr (.inl ⟨_, _, _, rfl⟩)
      · exact .inr (.inr ⟨_, _, _, rfl⟩)

/-- Counting on a feed leaves every monitor as it was but for counters. -/
theorem State.countFeed_counters (s : State) (g : Feed) (k : FeedCounters → FeedCounters) (f : Feed) :
    ∃ c, rd (s.countFeed g k).monitors f = { rd s.monitors f with counters := c } := by
  rw [State.countFeed_monitors, rd_wr]
  split
  · rename_i e; exact ⟨_, by rw [e]⟩
  · exact ⟨_, rfl⟩

theorem StreamsKept.of_change {I : State → Prop} (change : ∀ s t, StreamChange s t → I s → I t)
    (count : ∀ s ps ms, (∀ f, ∃ k, rd ms f = { rd s.monitors f with counters := k }) → I s →
      I { s with ports := ps, monitors := ms }) : StreamsKept I where
  review s := change _ _ s.selectorReview_change
  holdOff s i := change _ _ (s.holdOffExpiry_change i)
  take s f h := by
    rcases s.copyTake_cases f with e | ⟨p, g, k, e⟩ | ⟨p, i, copy, e⟩ <;> rw [e]
    · exact h
    · exact count s _ _ (State.countFeed_counters _ g k) h
    · exact change _ _ (State.onStream_change _ i _ _ fun c v => v.moves_admitCopy c copy)
        (count s _ s.monitors (fun _ => ⟨_, rfl⟩) h)
  due s i := change _ _ (s.dueExpiry_change i)
  restartStream s i := change _ _ (s.restartStream_change i false)

/-! ### Management, notices and the control queue -/

/-- A reply joins the control queue or the reply wait, and nothing else of the delivery port changes (R112, R116). -/
theorem State.placeReply_queues (s : State) (r : Reply) : ∃ cq rw,
    s.placeReply r = { s with delivery := { s.delivery with controlQueue := cq, replyWait := rw } } := by
  simp only [State.placeReply]
  split
  · exact ⟨s.delivery.controlQueue, s.delivery.replyWait, rfl⟩
  · split
    · exact ⟨_, s.delivery.replyWait, rfl⟩
    · exact ⟨s.delivery.controlQueue, _, rfl⟩

theorem State.abandonCommits_queues (s : State) : ∃ cq rw,
    s.abandonCommits = { s with delivery := { s.delivery with controlQueue := cq, replyWait := rw } } :=
  s.abandonCommits_keeps
    (I := fun t => ∃ cq rw, t = { s with delivery := { s.delivery with controlQueue := cq, replyWait := rw } })
    (fun t r h => by
      obtain ⟨_, _, rfl⟩ := h
      obtain ⟨cq, rw, h'⟩ := State.placeReply_queues _ r
      exact ⟨cq, rw, h'⟩) ⟨s.delivery.controlQueue, s.delivery.replyWait, rfl⟩

theorem State.replyWaitAdmit_queues (s : State) : ∃ cq rw,
    s.replyWaitAdmit = { s with delivery := { s.delivery with controlQueue := cq, replyWait := rw } } := by
  simp only [State.replyWaitAdmit]
  split
  · exact ⟨s.delivery.controlQueue, s.delivery.replyWait, rfl⟩
  · split
    · exact ⟨_, _, rfl⟩
    · exact ⟨s.delivery.controlQueue, s.delivery.replyWait, rfl⟩

/-- The fields of `Kept` for what touches only the inbox, the session and the notice unit. -/
structure SessionsKept (I : State → Prop) : Prop where
  record : ∀ s q k, I s → I (s.recordExecuted q k)
  idle : ∀ s, I s → I s.restartIdle
  close : ∀ s, I s → I s.closeSession
  inbox : ∀ s c rest, s.inbox = c :: rest → I s → I { s with inbox := rest }
  openSession : ∀ s (ss : Session), (ss.staging = [] ∨ ss.staging = s.stagingList) → I s →
    I { s with session := some ss }
  setNotices : ∀ s m x n, m &&& 0x1FFF = m → 1 ≤ x → x ≤ 16 → 1 ≤ n → n ≤ 1000 → I s →
    I (s.applyNoticeSettings m x n)
  stage : ∀ s ch l, (∀ e, ch.change = .write e → e.wellFormed = true) → stageChange s.stagingList ch = some l → I s →
    I (s.setStaging l)
  unstage : ∀ s p, I s → I (s.setStaging (s.stagingList.filter p))
  idleExpiry : ∀ s, I s → I s.idleExpire
  noticeRaise : ∀ s, I s → I s.noticeRaise
  refill : ∀ s, I s → I s.refillExpiry

theorem SessionsKept.of_change {I : State → Prop}
    (change : ∀ s ss ib n, I s → I { s with session := ss, inbox := ib, notices := n }) : SessionsKept I where
  record s q k h := change s _ s.inbox s.notices h
  idle s h := change s _ s.inbox s.notices h
  close s h := change s _ s.inbox s.notices h
  inbox s c rest _ h := change s s.session rest s.notices h
  openSession s ss _ h := change s _ s.inbox s.notices h
  setNotices s m x n _ _ _ _ _ h := change s s.session s.inbox _ h
  stage s ch l _ _ h := change s _ s.inbox s.notices h
  unstage s p h := change s _ s.inbox s.notices h
  idleExpiry s h := by
    rcases s.idleExpire_change with e | ⟨ns, e⟩ <;> rw [e]
    · exact h
    · exact change s _ s.inbox _ h
  noticeRaise s h := by
    obtain ⟨u, e⟩ := s.noticeRaise_change
    rw [e]; exact change s s.session s.inbox u h
  refill s h := by
    obtain ⟨u, e⟩ := s.refillExpiry_change
    rw [e]; exact change s s.session s.inbox u h

/-- The fields of `Kept` for replies handed over and admitted, and for the delivery link's coming up. -/
structure PortsKept (I : State → Prop) : Prop where
  placeReply : ∀ s r, I s → I (s.placeReply r)
  deliveryUp : ∀ s, I s → I s.deliveryLinkUp
  admitReply : ∀ s, I s → I s.replyWaitAdmit

theorem PortsKept.of_change {I : State → Prop}
    (change : ∀ s d, d.transmitter = s.delivery.transmitter → I s → I { s with delivery := d }) : PortsKept I where
  placeReply s r h := by
    obtain ⟨cq, rw, e⟩ := s.placeReply_queues r
    rw [e]; exact change s _ rfl h
  deliveryUp s h := change s _ rfl h
  admitReply s h := by
    obtain ⟨cq, rw, e⟩ := s.replyWaitAdmit_queues
    rw [e]; exact change s _ rfl h

/-- The fields of `Kept` for what touches only the management engine, the notice unit and the queues of control frames. -/
structure ManagementKept (I : State → Prop) : Prop extends SessionsKept I, PortsKept I where
  deliveryFrame : ∀ s bytes, I s → I (s.deliveryFrameReceived bytes)
  noticeMove : ∀ s, I s → I s.noticeMove

theorem ManagementKept.of_change {I : State → Prop}
    (change : ∀ s ss ib io n d, d.transmitter = s.delivery.transmitter → I s →
      I { s with session := ss, inbox := ib, inboxOverflows := io, notices := n, delivery := d }) :
    ManagementKept I where
  toSessionsKept := .of_change fun s ss ib n h => change s ss ib s.inboxOverflows n s.delivery rfl h
  toPortsKept := .of_change fun s d hd h => change s s.session s.inbox s.inboxOverflows s.notices d hd h
  deliveryFrame s bytes h := by
    obtain ⟨_, _, _, _, _, e, -⟩ := s.deliveryFrameReceived_change bytes
    rw [e]; exact change s s.session _ _ _ _ rfl h
  noticeMove s h := by
    obtain ⟨n, q, e⟩ := s.noticeMove_change
    rw [e]; exact change s s.session s.inbox s.inboxOverflows n _ rfl h

/-! ### The table engine -/

/-- The fields of `Kept` for the table engine's writing of the standby bank. -/
structure EngineKept (I : State → Prop) : Prop where
  prepare : ∀ s, I s → I s.prepareComplete
  sync : ∀ s, I s → I s.syncComplete

theorem EngineKept.of_change {I : State → Prop}
    (change : ∀ s b e, I s → I { s.setStandby b with engine := e }) : EngineKept I where
  prepare s h := by
    rcases s.prepareComplete_change with e | ⟨_, -, e⟩ <;> rw [e]
    · exact h
    · exact change s _ _ h
  sync s h := by
    rcases s.syncComplete_change with e | ⟨_, _, -, e⟩ <;> rw [e]
    · exact h
    · exact change s _ _ h

end Sys2Proof.Machine
end

section
/-! What every command leaves alone: the waiting commands, part time, the live table, and the front of the data queue. -/

namespace Sys2Proof.Machine

/-- Writing the standby bank leaves every field but the banks. -/
theorem State.setStandby_fields (s : State) (b : Bank) : (s.setStandby b).pending = s.pending ∧
    (s.setStandby b).elapsed = s.elapsed ∧ (s.setStandby b).live = s.live ∧
    (s.setStandby b).generation = s.generation ∧ (s.setStandby b).dataQueue = s.dataQueue := by
  obtain ⟨x, y, e⟩ := s.setStandby_change b
  rw [e]
  exact ⟨rfl, rfl, rfl, rfl, rfl⟩

theorem exec_completes (c : Instr) (s : State) : ∃ t, exec c s = .next t := by
  cases c <;> exact ⟨_, rfl⟩

/-! ### Part time and the queue of waiting commands -/

/-- The waiting commands are `q` and the moment is `x`. -/
def State.at (q : List Instr) (x : Moment) (s : State) : Prop := s.pending = q ∧ s.elapsed = x

theorem State.at_of_stream {q x s t} (c : StreamChange s t) (h : State.at q x s) : State.at q x t :=
  ⟨c.pending.trans h.1, c.elapsed.trans h.2⟩

theorem State.at_setStandby {q x s} (b : Bank) (h : State.at q x s) : State.at q x (s.setStandby b) := by
  obtain ⟨hp, he, -⟩ := s.setStandby_fields b
  exact ⟨hp.trans h.1, he.trans h.2⟩

/-- Every command but POR keeps the waiting commands and part time. -/
theorem kept_at (q : List Instr) (x : Moment) : Kept (State.at q x) (· = .por) :=
  { FeedsKept.of_change (I := State.at q x) (by rintro s _ ⟨_, _, _, _, _, rfl⟩ h; exact h),
    StreamsKept.of_change (I := State.at q x) (fun _ _ => State.at_of_stream) (fun _ _ _ _ h => h),
    ManagementKept.of_change (I := State.at q x) (fun _ _ _ _ _ _ _ h => h),
    EngineKept.of_change (I := State.at q x) (fun _ _ _ h => State.at_setStandby _ h) with
    por := fun _ hx _ => absurd rfl hx
    feedEvent := fun s f h => by obtain ⟨_, _, e⟩ := s.feedEvent_change f; rw [e]; exact h
    deliveryDown := fun s _ h => by obtain ⟨_, _, _, _, e⟩ := s.deliveryLinkDown_change; rw [e]; exact h
    start := fun s _ h => by obtain ⟨_, _, e⟩ := s.transmissionStart_change; rw [e]; exact h
    complete := fun s h => by obtain ⟨_, _, e⟩ := s.transmissionComplete_change; rw [e]; exact h
    clearTarget := fun s a b t ht h => by obtain ⟨_, _, _, _, _, _, rfl, -⟩ := State.clearTarget_change ht; exact h
    acknowledge := fun _ _ h => h
    restart := fun s _ h => by
      obtain ⟨_, u, d, _, _, _, -, rfl, -, c, e, -⟩ := s.restartPart_change
      rw [e]
      exact State.at_of_stream (t := u) c (State.at_setStandby s.liveBank h)
    clear := fun s _ h => by obtain ⟨_, _, _, _, _, -, e⟩ := s.clearPart_change; rw [e]; exact h
    commit := fun _ _ _ _ h => h
    swap := fun s _ h => by
      rcases s.swap_change with e | ⟨_, t, _, _, _, -, c, -, -, -, e⟩ <;> rw [e]
      · exact h
      · exact State.at_of_stream (t := t) c h }

/-! ### The live table (R15) -/

/-- The live bank is the bank `b`, named `l`, with generation `g`. -/
def State.serving (l : BankId) (b : Bank) (g : BitVec 32) (s : State) : Prop :=
  s.live = l ∧ s.liveBank = b ∧ s.generation = g

theorem State.serving_of_stream {l b g s t} (c : StreamChange s t) (h : State.serving l b g s) :
    State.serving l b g t :=
  ⟨c.live.trans h.1, c.liveBank.trans h.2.1, c.generation.trans h.2.2⟩

theorem State.serving_setStandby {l b g s} (x : Bank) (h : State.serving l b g s) :
    State.serving l b g (s.setStandby x) := by
  obtain ⟨-, -, hl, hg, -⟩ := s.setStandby_fields x
  exact ⟨hl.trans h.1, (s.setStandby_liveBank x).trans h.2.1, hg.trans h.2.2⟩

/-- Every command but SWAP, CLEAR and POR keeps the live table. -/
theorem kept_serving (l : BankId) (b : Bank) (g : BitVec 32) :
    Kept (State.serving l b g) (fun c => c = .por ∨ c = .swap ∨ c = .resetPartClear) :=
  { FeedsKept.of_change (I := State.serving l b g) (by rintro s _ ⟨_, _, _, _, _, rfl⟩ h; exact h),
    StreamsKept.of_change (I := State.serving l b g) (fun _ _ => State.serving_of_stream) (fun _ _ _ _ h => h),
    ManagementKept.of_change (I := State.serving l b g) (fun _ _ _ _ _ _ _ h => h),
    EngineKept.of_change (I := State.serving l b g) (fun _ _ _ h => State.serving_setStandby _ h) with
    por := fun _ hx _ => absurd (.inl rfl) hx
    feedEvent := fun s f h => by obtain ⟨_, _, e⟩ := s.feedEvent_change f; rw [e]; exact h
    deliveryDown := fun s _ h => by obtain ⟨_, _, _, _, e⟩ := s.deliveryLinkDown_change; rw [e]; exact h
    start := fun s _ h => by obtain ⟨_, _, e⟩ := s.transmissionStart_change; rw [e]; exact h
    complete := fun s h => by obtain ⟨_, _, e⟩ := s.transmissionComplete_change; rw [e]; exact h
    clearTarget := fun s a b t ht h => by obtain ⟨_, _, _, _, _, _, rfl, -⟩ := State.clearTarget_change ht; exact h
    acknowledge := fun _ _ h => h
    restart := fun s _ h => by
      obtain ⟨_, u, d, _, _, _, -, rfl, -, c, e, -⟩ := s.restartPart_change
      rw [e]
      exact State.serving_of_stream (t := u) c (State.serving_setStandby s.liveBank h)
    clear := fun _ hx _ => absurd (.inr (.inr rfl)) hx
    commit := fun _ _ _ _ h => h
    swap := fun _ hx _ => absurd (.inr (.inl rfl)) hx }

/-- Settles O2: each arm of `exec` answers a next state; part time and the waiting commands are kept by every command but
POR, which keeps the waiting commands itself, and the live table by every command but the three. -/
theorem commandsKeepTimeTableAndQueue : Obligations.CommandsKeepTimeTableAndQueue := by
  intro c s
  obtain ⟨t, ht⟩ := exec_completes c s
  have kept : c ≠ .por → State.at s.pending s.elapsed t := fun hc =>
    (kept_at s.pending s.elapsed).exec c hc s t ⟨rfl, rfl⟩ ht
  refine ⟨t, ht, ?_, fun hc => (kept hc).2, fun hp hs hr => ?_⟩
  · by_cases hc : c = .por
    · subst hc; cases ht; rfl
    · exact (kept hc).1
  · exact (kept_serving s.live s.liveBank s.generation).exec c (by simp [hp, hs, hr]) s t ⟨rfl, rfl, rfl⟩ ht

/-! ### The data queue (R111) -/

theorem State.queue_of_stream {q : List Frame} {s t : State} (c : StreamChange s t) (h : q <+: s.dataQueue) :
    q <+: t.dataQueue := h.trans c.queue

theorem State.queue_setStandby {q : List Frame} {s : State} (b : Bank) (h : q <+: s.dataQueue) :
    q <+: (s.setStandby b).dataQueue := by
  obtain ⟨-, -, -, -, e⟩ := s.setStandby_fields b
  rw [e]
  exact h

/-- The commands that take frames from the data queue (R113, R115, R118). -/
def takesFrames (c : Instr) : Prop :=
  c = .por ∨ c = .transmissionStart ∨ c = .deliveryLinkDown ∨ c = .resetPartRestart ∨ c = .resetPartClear

theorem kept_queue (q : List Frame) : Kept (fun s => q <+: s.dataQueue) takesFrames :=
  { FeedsKept.of_change (I := fun s => q <+: s.dataQueue) (by rintro s _ ⟨_, _, _, _, _, rfl⟩ h; exact h),
    StreamsKept.of_change (I := fun s => q <+: s.dataQueue) (fun _ _ => State.queue_of_stream) (fun _ _ _ _ h => h),
    ManagementKept.of_change (I := fun s => q <+: s.dataQueue) (fun _ _ _ _ _ _ _ h => h),
    EngineKept.of_change (I := fun s => q <+: s.dataQueue) (fun _ _ _ h => State.queue_setStandby _ h) with
    por := fun _ hx _ => absurd (by simp [takesFrames]) hx
    feedEvent := fun s f h => by obtain ⟨_, _, e⟩ := s.feedEvent_change f; rw [e]; exact h
    deliveryDown := fun _ hx _ => absurd (by simp [takesFrames]) hx
    start := fun _ hx _ => absurd (by simp [takesFrames]) hx
    complete := fun s h => by obtain ⟨_, _, e⟩ := s.transmissionComplete_change; rw [e]; exact h
    clearTarget := fun s a b t ht h => by obtain ⟨_, _, _, _, _, _, rfl, -⟩ := State.clearTarget_change ht; exact h
    acknowledge := fun _ _ h => h
    restart := fun _ hx _ => absurd (by simp [takesFrames]) hx
    clear := fun _ hx _ => absurd (by simp [takesFrames]) hx
    commit := fun _ _ _ _ h => h
    swap := fun s _ h => by
      rcases s.swap_change with e | ⟨_, t, _, _, _, -, c, -, -, -, e⟩ <;> rw [e]
      · exact h
      · exact State.queue_of_stream (t := t) c h }

/-- Settles O3: every event of streams adds frames at the back only, and the other commands outside the five leave the
queue alone. -/
theorem dataQueueGrowsAtTheBack : Obligations.DataQueueGrowsAtTheBack := by
  intro c s t he h1 h2 h3 h4 h5
  exact (kept_queue s.dataQueue).exec c (by simp [takesFrames, h1, h2, h3, h4, h5]) s t List.prefix_rfl he

end Sys2Proof.Machine
end

section
/-! The 512 buffers (R107, R110): where each event moves them, and that none is lost. -/

namespace Sys2Proof.Machine

/-- The buffers that are free, held, or in the data queue (R107). -/
def State.buffers (s : State) : Nat := s.pool.free + s.heldEntries + s.dataQueue.length

theorem State.poolBalanced_iff (s : State) :
    s.poolBalanced ↔ s.buffers + s.delivery.transmitter.dataFrames = 512 ∧ s.pool.settled := Iff.rfl

theorem State.heldEntries_congr {s t : State} (h : ∀ i, (rd t.runtimes i).hold.length = (rd s.runtimes i).hold.length) :
    t.heldEntries = s.heldEntries := by
  simp only [State.heldEntries, h]

theorem State.heldEntries_eq_zero {s : State} (h : ∀ i, (rd s.runtimes i).hold = []) : s.heldEntries = 0 := by
  simp [State.heldEntries, h]

/-- The held entries after one record is exchanged. -/
theorem State.heldEntries_wr {s t : State} {i : Slot} {r : Runtime} (h : t.runtimes = wr s.runtimes i r) :
    t.heldEntries + (rd s.runtimes i).hold.length = s.heldEntries + r.hold.length := by
  simp only [State.heldEntries, h]
  exact sum_wr (fun r : Runtime => r.hold.length) s.runtimes i r

/-! ### Events of streams -/

/-- An event of one stream keeps the buffers, and the pressure flag settled unless its test is left to later. -/
theorem State.onStream_buffers (s : State) (i : Slot) (b : Bool) (g : StreamCtx → StreamView → StreamView)
    (hg : ∀ c (v : StreamView), v.Moves c 0 (g c v)) : (s.onStream i b g).buffers = s.buffers ∧
      (b = false → s.pool.settled → (s.onStream i b g).pool.settled) := by
  simp only [State.onStream]
  cases s.enabledEntry i with
  | none => exact ⟨rfl, fun _ h => h⟩
  | some e =>
    have moves := hg (s.streamCtx i e b) (s.streamView i)
    have weight : _ = ((s.pool.free + (rd s.runtimes i).hold.length + s.dataQueue.length : Int)) + 0 := moves.weight
    have held := State.heldEntries_wr (s := s) (t := s.putStream i (g (s.streamCtx i e b) (s.streamView i))) rfl
    refine ⟨?_, moves.settled⟩
    simp only [StreamView.weight] at weight
    simp only [State.buffers, State.putStream_pool, State.putStream_dataQueue]
    omega

theorem State.restartStreams_buffers (s : State) : s.restartStreams.buffers = s.buffers := by
  have fold : ∀ (l : List Slot) (u : State),
      (l.foldl (fun t i => t.onStream i true fun c v => v.restart c) u).buffers = u.buffers := by
    intro l
    induction l with
    | nil => exact fun _ => rfl
    | cons i t ih => exact fun u => (ih _).trans (u.onStream_buffers i true _ fun c v => v.moves_restart c).1
  exact fold allSlots s

/-- The effect of a change class keeps the buffers: a stopped stream's held ones become free (R153). -/
theorem State.applyClass_buffers (s : State) (i : Slot) (old : Option Entry) :
    (s.applyClass i old).buffers = s.buffers := by
  simp only [State.applyClass]
  split
  · exact (s.onStream_buffers i true _ fun c v => v.moves_initialise c).1
  · split
    · exact (s.onStream_buffers i true _ fun c v => v.moves_retune c).1
    · exact (s.onStream_buffers i true _ fun c v => v.moves_initialise c).1
  · have held := fun k => State.heldEntries_wr (s := s) (t := s.stopStream i k) rfl
    simp only [State.buffers, State.stopStream, State.setRuntime_dataQueue] at held ⊢
    have := held (if (s.liveEntry i).isSome then (rd s.runtimes i).counters else StreamCounters.zero)
    simp only [Runtime.disabled, List.length_nil] at this ⊢
    omega
  · split
    · rfl
    · have held := State.heldEntries_wr
        (s := s) (t := s.setRuntime i { rd s.runtimes i with counters := StreamCounters.zero }) rfl
      simp only [State.buffers, State.setRuntime_pool, State.setRuntime_dataQueue]
      simp only at held
      omega

theorem State.applyClasses_buffers (old : Bank) (cs : List StagedChange) (s : State) :
    (s.applyClasses old cs).buffers = s.buffers := by
  induction cs generalizing s with
  | nil => rfl
  | cons x t ih => exact (ih _).trans (s.applyClass_buffers x.slot _)

/-! ### Buffers freed outside the merge engine -/

/-- Freed buffers join the pool, with the pressure flag tested (R109, R110). -/
theorem State.freeBuffers_buffers (s : State) (n : Nat) : (s.freeBuffers n).buffers = s.buffers + n ∧
    (s.freeBuffers n).delivery = s.delivery ∧ (s.pool.settled → (s.freeBuffers n).pool.settled) := by
  simp only [State.freeBuffers]
  split
  · subst n; exact ⟨(Nat.add_zero _).symm, rfl, id⟩
  · refine ⟨?_, rfl, fun _ => Pool.tested_settled _⟩
    simp only [State.buffers, State.testPool, State.raiseAll_pool, State.raiseAll_dataQueue, Pool.tested_free]
    have : ∀ ns p, (State.raiseAll { s with pool := p } ns).heldEntries = s.heldEntries := fun _ _ => rfl
    rw [this]
    omega

theorem State.poolBalanced_transmissionStart {s : State} (h : s.poolBalanced) : s.transmissionStart.poolBalanced := by
  obtain ⟨balance, settled⟩ := h
  simp only [State.transmissionStart]
  split
  · rename_i ready
    have idle : s.delivery.transmitter = .idle := by simpa using (Bool.and_eq_true_iff.1 ready).2
    rw [idle] at balance
    simp only [Transmitter.dataFrames] at balance
    have data : ∀ f rest, s.dataQueue = f :: rest → (s.serveData f rest).poolBalanced := fun f rest hq => by
      rw [hq] at balance
      refine ⟨?_, settled⟩
      change s.pool.free + s.heldEntries + rest.length + 1 = 512
      simp only [List.length_cons] at balance
      omega
    have control : ∀ g rest, (s.serveControl g rest).poolBalanced := fun g rest => ⟨balance, settled⟩
    split
    · exact ⟨by rw [idle]; exact balance, settled⟩
    · exact data _ _ ‹_›
    · exact control _ _
    · split
      · exact data _ _ ‹_›
      · exact control _ _
  · exact ⟨balance, settled⟩

/-! ### The statement -/

theorem State.poolBalanced_of_onStream {s : State} (i : Slot) (g : StreamCtx → StreamView → StreamView)
    (hg : ∀ c (v : StreamView), v.Moves c 0 (g c v)) (h : s.poolBalanced) : (s.onStream i false g).poolBalanced := by
  obtain ⟨buffers, settled⟩ := s.onStream_buffers i false g hg
  obtain ⟨balance, flag⟩ := s.poolBalanced_iff.1 h
  exact ⟨by rw [(s.onStream_change i false g hg).delivery]; exact (congrArg (· + _) buffers).trans balance,
    settled rfl flag⟩

theorem State.poolBalanced_deliveryLinkDown {s : State} (h : s.poolBalanced) : s.deliveryLinkDown.poolBalanced := by
  obtain ⟨balance, settled⟩ := s.poolBalanced_iff.1 h
  obtain ⟨hb, hd, hs⟩ := State.freeBuffers_buffers ({ s with
    dataQueue := []
    delivery := { s.delivery with
      linkUp := false, receiveStore := [], controlQueue := [], replyWait := [], transmitter := .idle, dataRun := 0
      flushed := satAdd s.delivery.flushed (s.dataQueue.length + s.delivery.transmitter.dataFrames) }
    notices := { s.notices with
      lost := satAdd16 s.notices.lost
        (noticeFrames s.delivery.controlQueue + s.delivery.transmitter.noticeFrames) } } : State)
    (s.dataQueue.length + s.delivery.transmitter.dataFrames)
  refine (State.poolBalanced_iff _).2 ⟨?_, hs settled⟩
  rw [State.deliveryLinkDown, hb, hd]
  change s.pool.free + s.heldEntries + 0 + (s.dataQueue.length + _) + 0 = 512
  simp only [State.buffers] at balance
  omega

theorem State.poolBalanced_transmissionComplete {s : State} (h : s.poolBalanced) : s.transmissionComplete.poolBalanced := by
  obtain ⟨balance, settled⟩ := s.poolBalanced_iff.1 h
  obtain ⟨hb, hd, hs⟩ := State.freeBuffers_buffers
    ({ s with delivery := { s.delivery with transmitter := .idle } } : State) s.delivery.transmitter.dataFrames
  refine (State.poolBalanced_iff _).2 ⟨?_, hs settled⟩
  rw [State.transmissionComplete, hb, hd]
  exact (Nat.add_zero _).trans balance

theorem State.poolBalanced_restartPart {s : State} (h : s.poolBalanced) : s.restartPart.poolBalanced := by
  obtain ⟨balance, settled⟩ := s.poolBalanced_iff.1 h
  obtain ⟨t, u, d, _, _, p, hd, ht, hu, c, e, hp⟩ := s.restartPart_change
  obtain ⟨cq, rw, q⟩ := s.abandonCommits_queues
  have sent : d.transmitter = s.delivery.transmitter := by
    have := congrArg (·.delivery.transmitter) (hd.symm.trans q)
    exact this
  have start : t.buffers = s.buffers := by
    obtain ⟨x, y, es⟩ := s.setStandby_change s.liveBank
    rw [ht, es]; rfl
  have moved : u.buffers = s.buffers := by rw [hu, State.restartStreams_buffers, start]
  have free : p.free = u.pool.free + u.dataQueue.length := by rw [hp, Pool.tested_free]
  rw [e]
  refine ⟨?_, by rw [hp]; exact Pool.tested_settled _⟩
  change p.free + u.heldEntries + 0 + d.transmitter.dataFrames = 512
  rw [sent, free]
  simp only [State.buffers] at balance moved
  omega

theorem State.poolBalanced_clearPart {s : State} (h : s.poolBalanced) : s.clearPart.poolBalanced := by
  obtain ⟨balance, -⟩ := h
  obtain ⟨d, _, _, _, _, hd, e⟩ := s.clearPart_change
  obtain ⟨cq, rw, q⟩ := s.dropControl.abandonCommits_queues
  have sent : d.transmitter = s.delivery.transmitter := by
    have := congrArg (·.delivery.transmitter) (hd.symm.trans q)
    exact this
  refine ⟨?_, by rw [e]; exact fun h => nomatch h⟩
  have held : s.clearPart.heldEntries = 0 := State.heldEntries_eq_zero fun i => by rw [e]; simp [Runtime.disabled]
  rw [held, e]
  change s.pool.free + s.heldEntries + s.dataQueue.length + 0 + 0 + d.transmitter.dataFrames = 512
  rw [sent]
  omega

theorem State.poolBalanced_swap {s : State} (h : s.poolBalanced) : s.swap.poolBalanced := by
  rcases s.swap_change with e | ⟨c, t, d, _, ns, -, ch, ht, -, ⟨r, hd⟩, e⟩
  · rw [e]; exact h
  · obtain ⟨balance, -⟩ := s.poolBalanced_iff.1 h
    obtain ⟨cq, rw, q⟩ := t.placeReply_queues r
    have moved : t.buffers = s.buffers := by rw [ht, State.applyClasses_buffers]; rfl
    have sent : d.transmitter = s.delivery.transmitter := by rw [hd, q]; exact congrArg (·.transmitter) ch.delivery
    rw [e]
    refine ⟨?_, Pool.tested_settled _⟩
    change t.pool.tested.1.free + t.heldEntries + t.dataQueue.length + d.transmitter.dataFrames = 512
    rw [Pool.tested_free, sent, ← balance, ← moved]
    rfl

theorem kept_poolBalanced : Kept State.poolBalanced :=
  { FeedsKept.of_change (I := State.poolBalanced) (by rintro s _ ⟨_, _, _, _, _, rfl⟩ h; exact h),
    ManagementKept.of_change (I := State.poolBalanced) (fun s _ _ _ _ d hd h => by
      obtain ⟨balance, settled⟩ := h
      exact ⟨by rw [← hd] at balance; exact balance, settled⟩),
    EngineKept.of_change (I := State.poolBalanced) (fun s b _ h => by
      obtain ⟨x, y, e⟩ := s.setStandby_change b
      rw [e]; exact h) with
    por := fun _ _ _ => by
      refine ⟨?_, fun h => nomatch h⟩
      have held : (State.powerOn ‹_›).heldEntries = 0 := State.heldEntries_eq_zero fun i => by
        simp [State.powerOn, State.reset, Runtime.disabled]
      rw [held]; rfl
    feedEvent := fun s f h => by
      have held : (s.feedEvent f).heldEntries = s.heldEntries := State.heldEntries_congr fun i => by
        simp only [State.feedEvent]
        split
        · rfl
        · rw [rd_tab]; split <;> rfl
      obtain ⟨_, _, e⟩ := s.feedEvent_change f
      refine ⟨?_, by rw [e]; exact h.2⟩
      rw [held, e]
      exact h.1
    review := fun s h => by
      simp only [State.selectorReview]
      split
      · exact State.poolBalanced_of_onStream _ _ (fun c v => v.moves_review c) h
      · exact h
    holdOff := fun s i h => by
      simp only [State.holdOffExpiry]
      split
      · split
        · exact State.poolBalanced_of_onStream _ _ (fun c v => v.moves_expireHoldOff c) h
        · exact h
      · exact h
    take := fun s f h => by
      rcases s.copyTake_cases f with e | ⟨p, g, k, e⟩ | ⟨p, i, copy, e⟩ <;> rw [e]
      · exact h
      · exact h
      · exact State.poolBalanced_of_onStream (s := s.setPort f p) i _ (fun c v => v.moves_admitCopy c copy) h
    due := fun s i h => by
      simp only [State.dueExpiry]
      split
      · split
        · exact State.poolBalanced_of_onStream _ _ (fun c v => v.moves_expireDue c _ _) h
        · exact h
      · exact h
    restartStream := fun s i h => State.poolBalanced_of_onStream i _ (fun c v => v.moves_restart c) h
    deliveryDown := fun _ _ => State.poolBalanced_deliveryLinkDown
    start := fun _ _ => State.poolBalanced_transmissionStart
    complete := fun _ => State.poolBalanced_transmissionComplete
    clearTarget := fun s a b t ht h => by
      obtain ⟨rs, _, _, _, _, _, rfl, hr, -⟩ := State.clearTarget_change ht
      obtain ⟨balance, settled⟩ := h
      refine ⟨?_, settled⟩
      rw [State.heldEntries_congr (s := s) fun i => by obtain ⟨k, e⟩ := hr i; simp only [e]]
      exact balance
    acknowledge := fun _ _ h => h
    restart := fun _ _ => State.poolBalanced_restartPart
    clear := fun _ _ => State.poolBalanced_clearPart
    commit := fun _ _ _ _ h => h
    swap := fun _ _ => State.poolBalanced_swap }

/-- Settles O6: no command moves a buffer out of its uses, and every free is followed by a test of the pressure flag. -/
theorem everyBufferHasOneUse : Obligations.EveryBufferHasOneUse := by
  intro s t h he
  exact kept_poolBalanced.step (fun _ h => h) (fun _ _ h => h) s t h he

end Sys2Proof.Machine
end

section
/-! The bounds of the delivery port (R112 to R117), of the management engine (R120, R145) and of the notice unit (R158 to
R162). -/

namespace Sys2Proof.Machine

/-! ### The delivery port -/

theorem noticeFrames_append (a b : List Frame) : noticeFrames (a ++ b) = noticeFrames a + noticeFrames b :=
  List.countP_append

theorem noticeFrames_singleton (f : Frame) : noticeFrames [f] = if f.kind = .notice then 1 else 0 := by
  simp [noticeFrames, List.countP_cons]

theorem noticeFrames_cons (f : Frame) (l : List Frame) :
    noticeFrames (f :: l) = noticeFrames l + if f.kind = .notice then 1 else 0 := by
  simp [noticeFrames, List.countP_cons]

/-- The bounds read the delivery port and the data queue alone. -/
theorem State.deliveryBounded_congr {s t : State} (hd : t.delivery = s.delivery) (hq : t.dataQueue = s.dataQueue)
    (h : s.deliveryBounded) : t.deliveryBounded := by
  rw [State.deliveryBounded, hd, hq]
  exact h

/-- While the link is up, the data queue is not bound. -/
theorem State.deliveryBounded_of_stream {s t : State} (c : StreamChange s t) (h : s.deliveryBounded) :
    t.deliveryBounded := by
  obtain ⟨places, notices, replies, run, down⟩ := h
  rw [State.deliveryBounded, c.delivery]
  refine ⟨places, notices, replies, run, fun hl => ?_⟩
  obtain ⟨queue, rest⟩ := down hl
  exact ⟨(c.down hl).trans queue, rest⟩

theorem State.deliveryBounded_placeReply {s : State} (r : Reply) (h : s.deliveryBounded) :
    (s.placeReply r).deliveryBounded := by
  obtain ⟨places, notices, replies, run, down⟩ := h
  have reply : (replyFrame r).kind = .reply := rfl
  simp only [State.placeReply]
  split
  · exact ⟨places, notices, replies, run, down⟩
  · rename_i up
    have up : s.delivery.linkUp = true := by simpa using up
    split
    · rename_i room
      have room : s.delivery.controlQueue.length < 8 := of_decide_eq_true (Bool.and_eq_true_iff.1 room).1
      refine ⟨?_, ?_, replies, run, fun hl => by rw [up] at hl; cases hl⟩
      · simpa using room
      · simpa [noticeFrames_append, noticeFrames_singleton, reply] using notices
    · refine ⟨places, notices, fun f hf => ?_, run, fun hl => by rw [up] at hl; cases hl⟩
      rcases List.mem_append.1 hf with hf | hf
      · exact replies f hf
      · rw [List.mem_singleton.1 hf]; exact reply

theorem State.deliveryBounded_replyWaitAdmit {s : State} (h : s.deliveryBounded) : s.replyWaitAdmit.deliveryBounded := by
  simp only [State.replyWaitAdmit]
  split
  · exact h
  · rename_i r rest hw
    obtain ⟨places, notices, replies, run, down⟩ := h
    split
    · rename_i room
      have room : s.delivery.controlQueue.length < 8 := room
      have reply : r.kind = .reply := replies r (by rw [hw]; exact List.mem_cons_self ..)
      refine ⟨by simpa using room, by simpa [noticeFrames_append, noticeFrames_singleton, reply] using notices,
        fun f hf => replies f (by rw [hw]; exact List.mem_cons_of_mem _ hf), run, fun hl => ?_⟩
      obtain ⟨-, -, empty, -⟩ := down hl
      rw [hw] at empty
      cases empty
    · exact ⟨places, notices, replies, run, down⟩

theorem State.deliveryBounded_noticeMove {s : State} (h : s.deliveryBounded) : s.noticeMove.deliveryBounded := by
  simp only [State.noticeMove]
  split
  · exact h
  · obtain ⟨places, notices, replies, run, down⟩ := h
    split
    · rename_i may
      simp only [State.noticeMayMove, Bool.and_eq_true, decide_eq_true_eq] at may
      obtain ⟨⟨⟨⟨-, up⟩, room⟩, few⟩, -⟩ := may
      have room : s.delivery.controlQueue.length < 8 := room
      have few : noticeFrames s.delivery.controlQueue < 6 := few
      refine ⟨by simpa using room, ?_, replies, run, fun hl => by rw [up] at hl; cases hl⟩
      rw [noticeFrames_append, noticeFrames_singleton]
      split <;> omega
    · exact ⟨places, notices, replies, run, down⟩

theorem State.deliveryBounded_transmissionStart {s : State} (h : s.deliveryBounded) :
    s.transmissionStart.deliveryBounded := by
  simp only [State.transmissionStart]
  split
  · rename_i ready
    have up : s.delivery.linkUp = true := (Bool.and_eq_true_iff.1 ready).1
    obtain ⟨places, notices, replies, run, down⟩ := h
    have data : ∀ f rest, (s.serveData f rest).deliveryBounded := fun f rest =>
      ⟨places, notices, replies, Nat.min_le_right _ _, fun hl => by rw [show s.delivery.linkUp = false from hl] at up; cases up⟩
    have control : ∀ g rest, s.delivery.controlQueue = g :: rest → (s.serveControl g rest).deliveryBounded := by
      intro g rest hq
      rw [hq] at places notices
      rw [noticeFrames_cons] at notices
      simp only [List.length_cons] at places
      exact ⟨Nat.le_of_succ_le places, (Nat.le_add_right ..).trans notices, replies, Nat.zero_le _,
        fun hl => by rw [show s.delivery.linkUp = false from hl] at up; cases up⟩
    split
    · exact ⟨places, notices, replies, run, down⟩
    · exact data _ _
    · exact control _ _ ‹_›
    · split
      · exact data _ _
      · exact control _ _ ‹_›
  · exact h

theorem kept_deliveryBounded : Kept State.deliveryBounded :=
  { FeedsKept.of_change (I := State.deliveryBounded) (by rintro s _ ⟨_, _, _, _, _, rfl⟩ h; exact h),
    StreamsKept.of_change (I := State.deliveryBounded) (fun _ _ => State.deliveryBounded_of_stream)
      (fun _ _ _ _ h => h),
    SessionsKept.of_change (I := State.deliveryBounded) (fun _ _ _ _ h => h),
    EngineKept.of_change (I := State.deliveryBounded) (fun s b _ h => by
      obtain ⟨x, y, e⟩ := s.setStandby_change b
      rw [e]; exact h) with
    placeReply := fun _ r h => State.deliveryBounded_placeReply r h
    admitReply := fun _ h => State.deliveryBounded_replyWaitAdmit h
    noticeMove := fun _ h => State.deliveryBounded_noticeMove h
    start := fun _ _ h => State.deliveryBounded_transmissionStart h
    deliveryUp := fun s h => by
      obtain ⟨places, notices, replies, run, -⟩ := h
      exact ⟨places, notices, replies, run, fun hl => nomatch hl⟩
    deliveryFrame := fun s bytes h => by
      obtain ⟨_, _, _, _, _, e, -⟩ := s.deliveryFrameReceived_change bytes
      rw [e]; exact h
    por := fun _ _ _ =>
      ⟨Nat.zero_le _, Nat.zero_le _, fun _ hf => (by cases hf), Nat.zero_le _, fun _ => ⟨rfl, rfl, rfl, rfl, rfl⟩⟩
    feedEvent := fun s f h => by obtain ⟨_, _, e⟩ := s.feedEvent_change f; rw [e]; exact h
    deliveryDown := fun s _ _ => by
      obtain ⟨_, _, _, _, e⟩ := s.deliveryLinkDown_change
      rw [e]
      exact ⟨Nat.zero_le _, Nat.zero_le _, fun _ hf => (by cases hf), Nat.zero_le _, fun _ => ⟨rfl, rfl, rfl, rfl, rfl⟩⟩
    complete := fun s h => by
      obtain ⟨_, _, e⟩ := s.transmissionComplete_change
      obtain ⟨places, notices, replies, run, down⟩ := h
      rw [e]
      refine ⟨places, notices, replies, run, fun hl => ?_⟩
      obtain ⟨queue, control, wait, -, zero⟩ := down hl
      exact ⟨queue, control, wait, rfl, zero⟩
    clearTarget := fun s a b t ht h => by
      obtain ⟨_, _, _, _, _, _, rfl, -⟩ := State.clearTarget_change ht; exact h
    acknowledge := fun _ _ h => h
    restart := fun s _ h => by
      obtain ⟨_, _, d, _, _, _, hd, -, -, -, e, -⟩ := s.restartPart_change
      have aborted : s.abandonCommits.deliveryBounded :=
        s.abandonCommits_keeps (fun _ r h => State.deliveryBounded_placeReply r h) h
      rw [hd] at aborted
      obtain ⟨places, notices, replies, run, down⟩ := aborted
      rw [e]
      exact ⟨places, notices, replies, run, fun hl => ⟨rfl, (down hl).2⟩⟩
    clear := fun s _ h => by
      obtain ⟨d, _, _, _, _, hd, e⟩ := s.clearPart_change
      have emptied : s.dropControl.deliveryBounded := by
        obtain ⟨-, -, -, run, down⟩ := h
        refine ⟨Nat.zero_le _, Nat.zero_le _, fun _ hf => (by cases hf), run, fun hl => ?_⟩
        obtain ⟨queue, -, -, idle, zero⟩ := down hl
        exact ⟨queue, rfl, rfl, idle, zero⟩
      have aborted := s.dropControl.abandonCommits_keeps (fun _ r h => State.deliveryBounded_placeReply r h) emptied
      rw [hd] at aborted
      obtain ⟨places, notices, replies, -, down⟩ := aborted
      rw [e]
      refine ⟨places, notices, replies, Nat.zero_le _, fun hl => ?_⟩
      obtain ⟨-, control, wait, idle, -⟩ := down hl
      exact ⟨rfl, control, wait, idle, rfl⟩
    commit := fun _ _ _ _ h => h
    swap := fun s _ h => by
      rcases s.swap_change with e | ⟨_, t, _, _, _, -, c, -, -, ⟨r, hd⟩, e⟩
      · rw [e]; exact h
      · have live : t.deliveryBounded := State.deliveryBounded_of_stream c h
        have placed := State.deliveryBounded_placeReply r live
        obtain ⟨_, _, q⟩ := t.placeReply_queues r
        rw [e]
        exact State.deliveryBounded_congr (s := t.placeReply r) hd (by rw [q]) placed }

/-- Settles O7: frames join a queue where it has room for them, and a link-down event empties every queue, which stay so
until the link is up. -/
theorem deliveryPortStaysBounded : Obligations.DeliveryPortStaysBounded := by
  intro s t h he
  exact kept_deliveryBounded.step (fun _ h => h) (fun _ _ h => h) s t h he

/-! ### The inbox and the staging list -/

/-- A staging list of at most 16 changes for distinct slots (R145). -/
def stagingBounded (l : List StagedChange) : Prop := l.length ≤ 16 ∧ (l.map (·.slot)).Nodup

theorem stagingBounded_nil : stagingBounded [] := ⟨Nat.zero_le _, List.nodup_nil⟩

/-- Staging keeps the slots distinct: a change takes the place of its slot's, or joins a list without one (R145). -/
theorem stageChange_slots {l m : List StagedChange} {ch : StagedChange} (h : stageChange l ch = some m)
    (hn : (l.map (·.slot)).Nodup) : (m.map (·.slot)).Nodup := by
  simp only [stageChange] at h
  split at h
  · cases h
    have same : (l.map fun x => if x.slot = ch.slot then ch else x).map (·.slot) = l.map (·.slot) := by
      rw [List.map_map]
      refine List.map_congr_left fun x _ => ?_
      simp only [Function.comp]
      split
      · rename_i e; exact e.symm
      · rfl
    rw [same]; exact hn
  · rename_i absent
    split at h
    · cases h
      rw [List.map_append, List.nodup_append]
      refine ⟨hn, List.nodup_singleton _, fun a ha b hb => ?_⟩
      obtain ⟨x, hx, rfl⟩ := List.mem_map.1 ha
      rw [List.map_singleton, List.mem_singleton] at hb
      rintro rfl
      exact absent (List.any_eq_true.2 ⟨x, hx, by simpa using hb⟩)
    · cases h

theorem stageChange_bounded {l m : List StagedChange} {ch : StagedChange} (h : stageChange l ch = some m)
    (hb : stagingBounded l) : stagingBounded m := by
  refine ⟨?_, stageChange_slots h hb.2⟩
  simp only [stageChange] at h
  split at h
  · cases h; rw [List.length_map]; exact hb.1
  · split at h
    · rename_i room
      cases h
      have room : l.length < 16 := room
      simpa using room
    · cases h

theorem filter_slots {l : List StagedChange} (p : StagedChange → Bool) (h : (l.map (·.slot)).Nodup) :
    ((l.filter p).map (·.slot)).Nodup := h.sublist (List.filter_sublist.map _)

theorem State.setStaging_stagingBounded {s : State} {l : List StagedChange} (h : stagingBounded l) :
    stagingBounded (s.setStaging l).stagingList := by
  rw [State.setStaging_stagingList]
  split
  · exact h
  · exact stagingBounded_nil

theorem State.stagingList_congr {s t : State} (h : t.session = s.session) : t.stagingList = s.stagingList := by
  simp only [State.stagingList, h]

theorem State.recordExecuted_stagingList (s : State) (q : Byte) (k : Cache) :
    (s.recordExecuted q k).stagingList = s.stagingList := by
  cases h : s.session <;> simp [State.stagingList, h]

theorem State.restartIdle_stagingList (s : State) : s.restartIdle.stagingList = s.stagingList := by
  cases h : s.session <;> simp [State.stagingList, h]

theorem State.answered_stagingList (s : State) (c : Commit) (r : Reply) {t : State}
    (h : t.session = s.session.map fun ss => ss.answered c r) : t.stagingList = s.stagingList := by
  have staging : ∀ ss : Session, (ss.answered c r).staging = ss.staging := fun ss => by
    simp only [Session.answered]; split <;> rfl
  cases hs : s.session <;> simp [State.stagingList, h, hs, staging]

/-- The bounds read the inbox and the staging list alone. -/
theorem State.managementBounded_of {s t : State} (hi : t.inbox = s.inbox) (hs : t.stagingList = s.stagingList)
    (h : s.managementBounded) : t.managementBounded := by
  rw [State.managementBounded, hi, hs]
  exact h

theorem kept_managementBounded : Kept State.managementBounded :=
  { FeedsKept.of_change (I := State.managementBounded) (by rintro s _ ⟨_, _, _, _, _, rfl⟩ h; exact h),
    StreamsKept.of_change (I := State.managementBounded)
      (fun _ _ c h => State.managementBounded_of c.inbox (State.stagingList_congr c.session) h) (fun _ _ _ _ h => h),
    PortsKept.of_change (I := State.managementBounded) (fun _ _ _ h => h),
    EngineKept.of_change (I := State.managementBounded) (fun s b _ h => by
      obtain ⟨x, y, e⟩ := s.setStandby_change b
      rw [e]; exact h) with
    record := fun s q k h => State.managementBounded_of (s := s) rfl (s.recordExecuted_stagingList q k) h
    idle := fun s h => State.managementBounded_of (s := s) rfl s.restartIdle_stagingList h
    close := fun s h => ⟨h.1, stagingBounded_nil⟩
    inbox := fun s c rest hi h => by
      obtain ⟨places, staging⟩ := h
      rw [hi, List.length_cons] at places
      exact ⟨Nat.le_of_succ_le places, staging⟩
    openSession := fun s ss hs h => by
      refine ⟨h.1, ?_⟩
      change stagingBounded ss.staging
      rcases hs with e | e <;> rw [e]
      · exact stagingBounded_nil
      · exact h.2
    stage := fun s ch l _ hl h => ⟨h.1, State.setStaging_stagingBounded (stageChange_bounded hl h.2)⟩
    unstage := fun s p h =>
      ⟨h.1, State.setStaging_stagingBounded ⟨(List.length_filter_le ..).trans h.2.1, filter_slots p h.2.2⟩⟩
    commit := fun c s _ _ h => ⟨h.1, State.setStaging_stagingBounded (s := s) stagingBounded_nil⟩
    idleExpiry := fun s h => by
      rcases s.idleExpire_change with e | ⟨ns, e⟩ <;> rw [e]
      · exact h
      · exact ⟨h.1, stagingBounded_nil⟩
    deliveryFrame := fun s bytes h => by
      obtain ⟨_, _, _, _, _, e, joined⟩ := s.deliveryFrameReceived_change bytes
      rw [e]
      rcases joined with rfl | ⟨c, room, rfl⟩
      · exact h
      · exact ⟨by have room : s.inbox.length < 4 := room; simpa using room, h.2⟩
    setNotices := fun _ _ _ _ _ _ _ _ _ h => h
    noticeRaise := fun s h => by obtain ⟨_, e⟩ := s.noticeRaise_change; rw [e]; exact h
    noticeMove := fun s h => by obtain ⟨_, _, e⟩ := s.noticeMove_change; rw [e]; exact h
    refill := fun s h => by obtain ⟨_, e⟩ := s.refillExpiry_change; rw [e]; exact h
    por := fun _ _ _ => ⟨Nat.zero_le _, stagingBounded_nil⟩
    feedEvent := fun s f h => by obtain ⟨_, _, e⟩ := s.feedEvent_change f; rw [e]; exact h
    deliveryDown := fun s _ h => by obtain ⟨_, _, _, _, e⟩ := s.deliveryLinkDown_change; rw [e]; exact h
    start := fun s _ h => by obtain ⟨_, _, e⟩ := s.transmissionStart_change; rw [e]; exact h
    complete := fun s h => by obtain ⟨_, _, e⟩ := s.transmissionComplete_change; rw [e]; exact h
    clearTarget := fun s a b t ht h => by
      obtain ⟨_, _, _, _, _, _, rfl, -⟩ := State.clearTarget_change ht; exact h
    acknowledge := fun _ _ h => h
    restart := fun s _ h => by
      obtain ⟨t, u, d, _, _, _, -, ht, -, c, e, -⟩ := s.restartPart_change
      obtain ⟨x, y, es⟩ := s.setStandby_change s.liveBank
      have start : t.managementBounded := by rw [ht, es]; exact h
      rw [e]
      exact State.managementBounded_of (s := t) (t := u) c.inbox (State.stagingList_congr c.session) start
    clear := fun s _ h => by obtain ⟨_, _, _, _, _, -, e⟩ := s.clearPart_change; rw [e]; exact h
    swap := fun s _ h => by
      rcases s.swap_change with e | ⟨_, t, _, _, _, -, c, -, hs, -, e⟩ <;> rw [e]
      · exact h
      · exact State.managementBounded_of (s := s) c.inbox (s.answered_stagingList _ _ hs) h }

/-- Settles O8: a command joins an inbox of fewer than four, and a change a staging list of fewer than sixteen that has none
for its slot. -/
theorem inboxAndStagingStayBounded : Obligations.InboxAndStagingStayBounded := by
  intro s t h he
  exact kept_managementBounded.step (fun _ h => h) (fun _ _ h => h) s t h he

/-! ### The notice unit -/

theorem coalesceInto_subjects (now : Time) (n : Notice) (q : List NoticeRecord) :
    (coalesceInto now n q).map (fun r => (r.kind, r.subject)) = q.map fun r => (r.kind, r.subject) := by
  rw [coalesceInto, List.map_map]
  refine List.map_congr_left fun r _ => ?_
  simp only [Function.comp]
  split <;> rfl

theorem State.noticesBounded_takeNotice {s : State} (n : Notice) (h : s.noticesBounded) :
    (s.takeNotice n).noticesBounded := by
  obtain ⟨places, subjects, repeats, settings⟩ := h
  simp only [State.takeNotice]
  split
  · refine ⟨by simpa [coalesceInto] using places, by rw [coalesceInto_subjects]; exact subjects, ?_, settings⟩
    intro r hr
    obtain ⟨r0, h0, rfl⟩ := List.mem_map.1 hr
    have := repeats r0 h0
    split
    · simp only [NoticeRecord.coalesce]; omega
    · exact this
  · rename_i unknown
    split
    · rename_i room
      have room : s.notices.queue.length < 32 := room
      refine ⟨by simpa using room, ?_, ?_, settings⟩
      · rw [List.map_append, List.nodup_append]
        refine ⟨subjects, List.nodup_singleton _, fun a ha b hb => ?_⟩
        obtain ⟨r, hr, rfl⟩ := List.mem_map.1 ha
        rw [List.map_singleton, List.mem_singleton] at hb
        rintro rfl
        obtain ⟨hk, hs⟩ := Prod.mk.inj hb
        exact unknown (List.any_eq_true.2 ⟨r, hr, by simp [NoticeRecord.matchesNotice, hk, hs]⟩)
      · intro r hr
        rcases List.mem_append.1 hr with hr | hr
        · exact repeats r hr
        · rw [List.mem_singleton.1 hr]; exact ⟨Nat.le_refl 1, (by decide : 1 ≤ 255)⟩
    · exact ⟨places, subjects, repeats, settings⟩

theorem State.noticesBounded_of_stream {s t : State} (c : StreamChange s t) (h : s.noticesBounded) :
    t.noticesBounded := by
  rw [State.noticesBounded, c.notices]
  exact h

theorem kept_noticesBounded : Kept State.noticesBounded :=
  { FeedsKept.of_change (I := State.noticesBounded) (by rintro s _ ⟨_, _, _, _, _, rfl⟩ h; exact h),
    StreamsKept.of_change (I := State.noticesBounded) (fun _ _ => State.noticesBounded_of_stream) (fun _ _ _ _ h => h),
    PortsKept.of_change (I := State.noticesBounded) (fun _ _ _ h => h),
    EngineKept.of_change (I := State.noticesBounded) (fun s b _ h => by
      obtain ⟨x, y, e⟩ := s.setStandby_change b
      rw [e]; exact h) with
    record := fun _ _ _ h => h
    idle := fun _ h => h
    close := fun _ h => h
    inbox := fun _ _ _ _ h => h
    openSession := fun _ _ _ h => h
    stage := fun _ _ _ _ _ h => h
    unstage := fun _ _ h => h
    commit := fun _ _ _ _ h => h
    idleExpiry := fun s h => by rcases s.idleExpire_change with e | ⟨ns, e⟩ <;> rw [e] <;> exact h
    deliveryFrame := fun s bytes h => by
      obtain ⟨_, _, _, _, _, e, -⟩ := s.deliveryFrameReceived_change bytes
      rw [e]; exact h
    setNotices := fun s m x n hm x1 x16 n1 n1000 h => by
      obtain ⟨places, subjects, repeats, -⟩ := h
      exact ⟨places, subjects, repeats, x1, x16, Nat.min_le_right _ _, n1, n1000, hm⟩
    noticeRaise := fun s h => by
      simp only [State.noticeRaise]
      split
      · exact State.noticesBounded_takeNotice _ (s := { s with notices := { s.notices with earlier := _ } }) h
      · exact h
      · split
        · exact State.noticesBounded_takeNotice _ (s := { s with notices := { s.notices with raised := _ } }) h
        · exact h
    noticeMove := fun s h => by
      simp only [State.noticeMove]
      split
      · exact h
      · rename_i r rest hq
        split
        · obtain ⟨places, subjects, repeats, max1, max16, credits, settings⟩ := h
          rw [hq] at places subjects repeats
          exact ⟨Nat.le_of_succ_le places, (List.nodup_cons.1 subjects).2,
            fun x hx => repeats x (List.mem_cons_of_mem _ hx), max1, max16, (Nat.sub_le _ _).trans credits, settings⟩
        · exact h
    refill := fun s h => by
      simp only [State.refillExpiry]
      split
      · obtain ⟨places, subjects, repeats, max1, max16, credits, settings⟩ := h
        refine ⟨places, subjects, repeats, max1, max16, ?_, settings⟩
        dsimp only
        split <;> omega
      · exact h
    por := fun s _ _ => by
      refine ⟨Nat.zero_le _, List.nodup_nil, fun _ hr => (by cases hr), ?_⟩
      change 1 ≤ 8 ∧ 8 ≤ 16 ∧ 8 ≤ 8 ∧ 1 ≤ 50 ∧ 50 ≤ 1000 ∧ Config.maskReset &&& 0x1FFF = Config.maskReset
      decide
    feedEvent := fun s f h => by obtain ⟨_, _, e⟩ := s.feedEvent_change f; rw [e]; exact h
    deliveryDown := fun s _ h => by obtain ⟨_, _, _, _, e⟩ := s.deliveryLinkDown_change; rw [e]; exact h
    start := fun s _ h => by obtain ⟨_, _, e⟩ := s.transmissionStart_change; rw [e]; exact h
    complete := fun s h => by obtain ⟨_, _, e⟩ := s.transmissionComplete_change; rw [e]; exact h
    clearTarget := fun s a b t ht h => by
      obtain ⟨_, _, _, _, _, _, rfl, -⟩ := State.clearTarget_change ht; exact h
    acknowledge := fun _ _ h => h
    restart := fun s _ h => by
      obtain ⟨t, u, d, _, _, _, -, ht, -, c, e, -⟩ := s.restartPart_change
      obtain ⟨x, y, es⟩ := s.setStandby_change s.liveBank
      have start : t.noticesBounded := by rw [ht, es]; exact h
      rw [e]
      exact State.noticesBounded_of_stream (t := u) c start
    clear := fun s _ h => by
      obtain ⟨_, _, _, _, _, -, e⟩ := s.clearPart_change
      rw [e]
      refine ⟨Nat.zero_le _, List.nodup_nil, fun _ hr => (by cases hr), ?_⟩
      change 1 ≤ 8 ∧ 8 ≤ 16 ∧ 8 ≤ 8 ∧ 1 ≤ 50 ∧ 50 ≤ 1000 ∧ Config.maskReset &&& 0x1FFF = Config.maskReset
      decide
    swap := fun s _ h => by
      rcases s.swap_change with e | ⟨_, t, _, _, _, -, c, -, -, -, e⟩ <;> rw [e]
      · exact h
      · exact State.noticesBounded_of_stream (t := t) c h }

/-- Settles O9: a record is created below 32 and for a kind and subject that has none, and the settings of a SET_NOTICES
have passed its checks. -/
theorem noticeUnitStaysBounded : Obligations.NoticeUnitStaysBounded := by
  intro s t h he
  exact kept_noticesBounded.step (fun _ h => h) (fun _ _ h => h) s t h he

end Sys2Proof.Machine
end

section
/-! The two banks (R15, R148): how far apart they are, and that both stay in range, with distinct ENABLED tags that their
indexes map (R4, R5, R16). -/

namespace Sys2Proof.Machine

/-! ### How far the banks are apart -/

/-- The agreement of the banks for the table engine's state `e` (R15, R148). -/
def EngineState.agrees (e : EngineState) (live standby : Bank) : Prop :=
  match e with
  | .ready => standby = live
  | .preparing _ false => standby = live
  | .preparing c true => standby = live.applyChanges c.changes
  | .syncing cs _ => standby.applyChanges cs = live

/-- The agreement of the banks, said of the engine's state by a name: `State.banksAgree` splits on the state itself, which
Lean would compute for the one that a RESTART leaves. -/
def State.BanksApart (s : State) : Prop := ∀ e, s.engine = e → e.agrees s.liveBank s.standbyBank

theorem State.banksApart_iff (s : State) : s.BanksApart ↔ s.banksAgree := by
  constructor
  · intro h
    exact h _ rfl
  · rintro h _ rfl
    exact h

theorem State.BanksApart.agrees {s : State} {e : EngineState} (h : s.BanksApart) (he : s.engine = e) :
    e.agrees s.liveBank s.standbyBank := h e he

theorem State.BanksApart.of_agrees {s : State} {e : EngineState} {live standby : Bank} (he : s.engine = e)
    (hl : s.liveBank = live) (hb : s.standbyBank = standby) (h : e.agrees live standby) : s.BanksApart := by
  rintro _ rfl
  rw [he, hl, hb]
  exact h

/-- The agreement of the banks reads the table engine's state and the two banks alone. -/
theorem State.banksApart_congr {s t : State} (he : t.engine = s.engine) (hl : t.liveBank = s.liveBank)
    (hb : t.standbyBank = s.standbyBank) (h : s.BanksApart) : t.BanksApart :=
  State.BanksApart.of_agrees he hl hb (h.agrees rfl)

theorem State.banksApart_of_stream {s t : State} (c : StreamChange s t) (h : s.BanksApart) : t.BanksApart :=
  State.banksApart_congr c.engine c.liveBank c.standbyBank h

/-- After a RESTART the standby bank is the live bank again (R143 step 2). -/
theorem State.restartPart_banks (s : State) : s.restartPart.liveBank = s.liveBank ∧
    s.restartPart.standbyBank = s.liveBank ∧ s.restartPart.engine = .ready ∧
    s.restartPart.session = s.session := by
  obtain ⟨t, u, d, _, _, _, -, ht, -, c, e, -⟩ := s.restartPart_change
  obtain ⟨x, y, es⟩ := s.setStandby_change s.liveBank
  have live : t.liveBank = s.liveBank := by rw [ht]; exact s.setStandby_liveBank s.liveBank
  have standby : t.standbyBank = s.liveBank := by rw [ht]; exact s.setStandby_standbyBank s.liveBank
  have session : t.session = s.session := by rw [ht, es]
  rw [e]
  exact ⟨c.liveBank.trans live, c.standbyBank.trans standby, by rw [c.engine, ht], c.session.trans session⟩

/-- After a CLEAR both banks are empty (R144 step 3). -/
theorem State.clearPart_banks (s : State) : s.clearPart.liveBank = Bank.empty ∧ s.clearPart.standbyBank = Bank.empty ∧
    s.clearPart.engine = .ready ∧ s.clearPart.session = s.session := by
  obtain ⟨_, _, _, _, _, -, e⟩ := s.clearPart_change
  rw [e]
  exact ⟨rfl, rfl, rfl, rfl⟩

/-- A requested swap exchanges the banks and starts the sync (R152). -/
theorem State.swap_banks (s : State) : s.swap = s ∨ ∃ c, s.engine = .preparing c true ∧
    s.swap.liveBank = s.standbyBank ∧ s.swap.standbyBank = s.liveBank ∧ s.swap.engine = .syncing c.changes none ∧
    ∃ r, s.swap.session = s.session.map fun ss => ss.answered c r := by
  rcases s.swap_change with e | ⟨k, t, _, _, _, engine, c, -, hs, -, e⟩
  · exact .inl e
  · right
    rw [e]
    exact ⟨k, engine, c.liveBank.trans s.other_liveBank, c.standbyBank.trans s.other_standbyBank, rfl, _, hs⟩

/-- PREPARE_COMPLETE writes the commit's changes into the standby bank (R151). -/
theorem State.prepareComplete_banks (s : State) : s.prepareComplete = s ∨ ∃ c, s.engine = .preparing c false ∧
    s.prepareComplete.liveBank = s.liveBank ∧
    s.prepareComplete.standbyBank = s.standbyBank.applyChanges c.changes ∧
    s.prepareComplete.engine = .preparing c true ∧ s.prepareComplete.session = s.session := by
  rcases s.prepareComplete_change with e | ⟨c, engine, e⟩
  · exact .inl e
  · obtain ⟨x, y, es⟩ := s.setStandby_change (s.standbyBank.applyChanges c.changes)
    right
    rw [e]
    exact ⟨c, engine, s.setStandby_liveBank _, s.setStandby_standbyBank _, rfl, by rw [es]⟩

/-- The table engine after the sync of a change list, with the commit queued behind it (R155). -/
def EngineState.synced : Option Commit → EngineState
  | none => .ready
  | some q => .preparing q false

/-- SYNC_COMPLETE writes the change list into the standby bank (R155). -/
theorem State.syncComplete_banks (s : State) : s.syncComplete = s ∨ ∃ cs q, s.engine = .syncing cs q ∧
    s.syncComplete.liveBank = s.liveBank ∧ s.syncComplete.standbyBank = s.standbyBank.applyChanges cs ∧
    s.syncComplete.engine = .synced q ∧ s.syncComplete.session = s.session := by
  rcases s.syncComplete_change with e | ⟨cs, q, engine, e⟩
  · exact .inl e
  · obtain ⟨x, y, es⟩ := s.setStandby_change (s.standbyBank.applyChanges cs)
    right
    rw [e]
    exact ⟨cs, q, engine, s.setStandby_liveBank _, s.setStandby_standbyBank _, by cases q <;> rfl, by rw [es]⟩

/-- POR leaves both banks empty (R19). -/
theorem State.powerOn_banks (s : State) : s.powerOn.engine = .ready ∧ s.powerOn.liveBank = Bank.empty ∧
    s.powerOn.standbyBank = Bank.empty := by
  simp only [State.powerOn, State.reset, State.liveBank, State.standbyBank, and_self]

/-- An accepted COMMIT writes nothing yet (R149, R150). -/
theorem State.banksApart_acceptCommit {s : State} (c : Command) (hb : s.engine.busy = false) (h : s.BanksApart) :
    (acceptCommit c s).state.BanksApart := by
  cases he : s.engine with
  | ready =>
    have same : s.standbyBank = s.liveBank := h.agrees he
    refine .of_agrees (e := .preparing ⟨c.token, c.seq, s.stagingList⟩ false) ?_ rfl rfl same
    simp only [acceptCommit, EngineState.accept, he]
  | preparing k r => rw [he] at hb; cases hb
  | syncing cs q =>
    have written : s.standbyBank.applyChanges cs = s.liveBank := h.agrees he
    refine .of_agrees (e := .syncing cs (some ⟨c.token, c.seq, s.stagingList⟩)) ?_ rfl rfl written
    simp only [acceptCommit, EngineState.accept, he]

theorem State.banksApart_powerOn (s : State) : s.powerOn.BanksApart := by
  obtain ⟨engine, live, standby⟩ := s.powerOn_banks
  exact .of_agrees engine live standby rfl

theorem State.banksApart_restartPart (s : State) : s.restartPart.BanksApart := by
  obtain ⟨live, standby, engine, -⟩ := s.restartPart_banks
  exact .of_agrees engine live standby rfl

theorem State.banksApart_clearPart (s : State) : s.clearPart.BanksApart := by
  obtain ⟨live, standby, engine, -⟩ := s.clearPart_banks
  exact .of_agrees engine live standby rfl

theorem State.banksApart_prepareComplete {s : State} (h : s.BanksApart) : s.prepareComplete.BanksApart := by
  rcases s.prepareComplete_banks with e | ⟨c, before, live, standby, engine, -⟩
  · rw [e]; exact h
  · have same : s.standbyBank = s.liveBank := h.agrees before
    exact .of_agrees engine live (standby.trans (by rw [same])) rfl

theorem State.banksApart_swap {s : State} (h : s.BanksApart) : s.swap.BanksApart := by
  rcases s.swap_banks with e | ⟨c, before, live, standby, engine, -⟩
  · rw [e]; exact h
  · have written : s.standbyBank = s.liveBank.applyChanges c.changes := h.agrees before
    exact .of_agrees engine live standby written.symm

theorem State.banksApart_syncComplete {s : State} (h : s.BanksApart) : s.syncComplete.BanksApart := by
  rcases s.syncComplete_banks with e | ⟨cs, q, before, live, standby, engine, -⟩
  · rw [e]; exact h
  · have written : s.standbyBank.applyChanges cs = s.liveBank := h.agrees before
    refine .of_agrees engine live (standby.trans written) ?_
    cases q <;> rfl

theorem kept_banksApart : Kept State.BanksApart :=
  { FeedsKept.of_change (I := State.BanksApart) (by rintro s _ ⟨_, _, _, _, _, rfl⟩ h; exact h),
    StreamsKept.of_change (I := State.BanksApart) (fun _ _ => State.banksApart_of_stream) (fun _ _ _ _ h => h),
    ManagementKept.of_change (I := State.BanksApart) (fun _ _ _ _ _ _ _ h => h) with
    por := fun s _ _ => s.banksApart_powerOn
    feedEvent := fun s f h => by obtain ⟨_, _, e⟩ := s.feedEvent_change f; rw [e]; exact h
    deliveryDown := fun s _ h => by obtain ⟨_, _, _, _, e⟩ := s.deliveryLinkDown_change; rw [e]; exact h
    start := fun s _ h => by obtain ⟨_, _, e⟩ := s.transmissionStart_change; rw [e]; exact h
    complete := fun s h => by obtain ⟨_, _, e⟩ := s.transmissionComplete_change; rw [e]; exact h
    clearTarget := fun s a b t ht h => by obtain ⟨_, _, _, _, _, _, rfl, -⟩ := State.clearTarget_change ht; exact h
    acknowledge := fun _ _ h => h
    restart := fun s _ _ => s.banksApart_restartPart
    clear := fun s _ _ => s.banksApart_clearPart
    commit := fun c _ hb _ h => State.banksApart_acceptCommit c hb h
    prepare := fun _ h => State.banksApart_prepareComplete h
    swap := fun _ _ h => State.banksApart_swap h
    sync := fun _ h => State.banksApart_syncComplete h }

/-- Settles O10: prepare writes the change list into a standby bank equal to the live bank, the swap exchanges the two, and
the sync writes it into the other. -/
theorem banksStayOneCommitApart : Obligations.BanksStayOneCommitApart := by
  intro s t h he
  rw [← State.banksApart_iff] at h ⊢
  exact kept_banksApart.step (fun _ h => h) (fun _ _ h => h) s t h he

/-! ### The tag index through bank changes (R16) -/

/-- No two slots of a bank hold ENABLED entries with one tag (R5). -/
def Bank.tagsDistinct (b : Bank) : Prop := ∀ i j e e', i ≠ j → rd b.slots i = some e → rd b.slots j = some e' →
  e.enabled = true → e'.enabled = true → e.tag ≠ e'.tag

/-- An index of distinct tags maps each to one slot. -/
theorem index_unique {ix : List (Tag × Slot)} (hn : (ix.map (·.1)).Nodup) {t : Tag} {i j : Slot} (hi : (t, i) ∈ ix)
    (hj : (t, j) ∈ ix) : i = j := by
  have := List.inj_on_of_nodup_map hn hi hj rfl
  exact (Prod.mk.inj this).2

theorem Bank.indexed_tagsDistinct {b : Bank} (h : b.indexed) : b.tagsDistinct := by
  obtain ⟨-, mapped, distinct⟩ := h
  intro i j e e' hij hi hj he he' same
  have hj' := mapped j e' hj he'
  rw [← same] at hj'
  exact hij (index_unique distinct (mapped i e hi he) hj')

theorem mem_indexInsert {t : Tag} {i : Slot} {ix : List (Tag × Slot)} {m : Tag × Slot} :
    m ∈ indexInsert t i ix ↔ m = (t, i) ∨ m ∈ ix := by
  induction ix with
  | nil => simp [indexInsert]
  | cons a l ih =>
    simp only [indexInsert]
    split
    · simp
    · simp only [List.mem_cons, ih]; tauto

theorem indexInsert_tags {t : Tag} {i : Slot} {ix : List (Tag × Slot)} (hn : (ix.map (·.1)).Nodup)
    (ht : ∀ m ∈ ix, m.1 ≠ t) : ((indexInsert t i ix).map (·.1)).Nodup := by
  induction ix with
  | nil => simp [indexInsert]
  | cons a l ih =>
    simp only [List.map_cons, List.nodup_cons] at hn
    simp only [indexInsert]
    split
    · simp only [List.map_cons, List.nodup_cons]
      refine ⟨fun h => ?_, hn⟩
      obtain ⟨m, hm, e⟩ := List.mem_map.1 (show t ∈ (a :: l).map (·.1) from List.mem_cons.2 (List.mem_cons.1 h))
      exact ht m hm e
    · simp only [List.map_cons, List.nodup_cons]
      refine ⟨fun h => ?_, ih hn.2 fun m hm => ht m (List.mem_cons_of_mem _ hm)⟩
      obtain ⟨m, hm, e⟩ := List.mem_map.1 h
      rcases mem_indexInsert.1 hm with rfl | hm
      · exact ht a (List.mem_cons_self ..) e.symm
      · exact hn.1 (List.mem_map.2 ⟨m, hm, e⟩)

/-- Withdrawing a slot removes the mapping of its ENABLED tag, and no other (R16). -/
theorem Bank.withdraw_indexed {b : Bank} (i : Slot) (h : b.indexed) : (b.withdraw i).indexed := by
  obtain ⟨sound, mapped, distinct⟩ := h
  cases hi : rd b.slots i with
  | none => rw [show b.withdraw i = b by simp only [Bank.withdraw, hi]]; exact ⟨sound, mapped, distinct⟩
  | some e =>
    have index : (b.withdraw i).index = if e.enabled then indexRemove e.tag b.index else b.index := by
      simp only [Bank.withdraw, hi]
    have kept : ∀ m, m ∈ (b.withdraw i).index ↔ m ∈ b.index ∧ m.2 ≠ i := by
      intro m
      rw [index]
      split
      · rename_i enabled
        simp only [indexRemove, List.mem_filter, bne_iff_ne]
        refine and_congr_right fun hm => not_congr ⟨fun same => ?_, fun same => ?_⟩
        · exact index_unique distinct (same ▸ (show (m.1, m.2) ∈ b.index from hm)) (mapped i e hi enabled)
        · obtain ⟨e', he', -, tag⟩ := sound m hm
          rw [same, hi] at he'
          rw [← tag, Option.some.inj he']
      · rename_i disabled
        refine (and_iff_left_of_imp fun hm same => ?_).symm
        obtain ⟨e', he', enabled, -⟩ := sound m hm
        rw [same, hi] at he'
        exact disabled (Option.some.inj he' ▸ enabled)
    refine ⟨fun m hm => ?_, fun j e' hj enabled => ?_, ?_⟩
    · obtain ⟨hm, hne⟩ := (kept m).1 hm
      rw [Bank.withdraw_slots, if_neg hne]
      exact sound m hm
    · rw [Bank.withdraw_slots] at hj
      split at hj
      · cases hj
      · exact (kept _).2 ⟨mapped j e' hj enabled, ‹_›⟩
    · refine distinct.sublist (List.Sublist.map _ ?_)
      rw [index]
      split
      · exact List.filter_sublist
      · exact List.Sublist.refl _

/-- Writing a change keeps the index sound when no other slot has the tag of an ENABLED entry it writes (R16). -/
theorem Bank.write_indexed {b : Bank} (x : StagedChange) (h : b.indexed)
    (ht : ∀ e, x.change = .write e → e.enabled = true →
      ∀ j e', j ≠ x.slot → rd b.slots j = some e' → e'.enabled = true → e'.tag ≠ e.tag) : (b.write x).indexed := by
  obtain ⟨sound, mapped, distinct⟩ := Bank.withdraw_indexed x.slot h
  cases hx : x.change with
  | remove =>
    rw [show b.write x = b.withdraw x.slot by simp only [Bank.write, hx]]
    exact ⟨sound, mapped, distinct⟩
  | write e =>
    have index : (b.write x).index =
        if e.enabled then indexInsert e.tag x.slot (b.withdraw x.slot).index else (b.withdraw x.slot).index := by
      simp only [Bank.write, hx]
    have slots : ∀ j, rd (b.write x).slots j = if j = x.slot then some e else rd (b.withdraw x.slot).slots j := by
      intro j
      rw [Bank.write_slots, hx, Bank.withdraw_slots]
      split <;> rfl
    have outside : ∀ m ∈ (b.withdraw x.slot).index, m.2 ≠ x.slot := by
      intro m hm same
      obtain ⟨e', he', -⟩ := sound m hm
      rw [Bank.withdraw_slots, if_pos same] at he'
      cases he'
    have member : ∀ m, m ∈ (b.write x).index ↔ (e.enabled = true ∧ m = (e.tag, x.slot)) ∨
        m ∈ (b.withdraw x.slot).index := by
      intro m
      rw [index]
      split
      · rename_i enabled
        rw [mem_indexInsert, enabled]
        simp
      · rename_i disabled
        simp [disabled]
    refine ⟨fun m hm => ?_, fun j e' hj enabled => ?_, ?_⟩
    · rw [slots]
      rcases (member m).1 hm with ⟨enabled, rfl⟩ | hm
      · exact ⟨e, if_pos rfl, enabled, rfl⟩
      · rw [if_neg (outside m hm)]
        exact sound m hm
    · rw [slots] at hj
      split at hj
      · rename_i same
        cases hj
        exact (member _).2 (.inl ⟨enabled, by rw [same]⟩)
      · exact (member _).2 (.inr (mapped j e' hj enabled))
    · rw [index]
      split
      · rename_i enabled
        refine indexInsert_tags distinct fun m hm => ?_
        obtain ⟨e', he', enabled', tag⟩ := sound m hm
        rw [Bank.withdraw_slots, if_neg (outside m hm)] at he'
        rw [← tag]
        exact ht e hx enabled m.2 e' (outside m hm) he' enabled'
      · exact distinct

/-- A change list for distinct slots that leaves distinct tags keeps the index sound: while the slots are written, each
entry is one that the list leaves (R16). -/
theorem Bank.applyChanges_indexed {b : Bank} {cs : List StagedChange} (hn : (cs.map (·.slot)).Nodup)
    (ht : (b.applyChanges cs).tagsDistinct) (h : b.indexed) : (b.applyChanges cs).indexed := by
  have withdrawn : ∀ (l : List StagedChange) (c : Bank), c.indexed →
      (l.foldl (fun b ch => b.withdraw ch.slot) c).indexed := by
    intro l
    induction l with
    | nil => exact fun _ h => h
    | cons x t ih => exact fun c h => ih _ (Bank.withdraw_indexed x.slot h)
  have written : ∀ (l : List StagedChange) (c : Bank), (∀ x ∈ l, x ∈ cs) → c.indexed →
      (∀ j e, rd c.slots j = some e → rd (b.applyChanges cs).slots j = some e) → (l.foldl Bank.write c).indexed := by
    intro l
    induction l with
    | nil => exact fun _ _ h _ => h
    | cons x t ih =>
      intro c hl hc final
      have left : rd (b.applyChanges cs).slots x.slot = x.change.entry :=
        Bank.applyChanges_touched b cs x (hl x (List.mem_cons_self ..)) hn
      refine ih _ (fun y hy => hl y (List.mem_cons_of_mem _ hy)) (Bank.write_indexed x hc ?_) fun j e hj => ?_
      · intro e hx enabled j e' hj he' enabled'
        exact ht j x.slot e' e hj (final j e' he') (by rw [left, hx]; rfl) enabled' enabled
      · rw [Bank.write_slots] at hj
        split at hj
        · rename_i same
          rw [same, left]
          exact hj
        · exact final j e hj
  refine written cs _ (fun _ h => h) (withdrawn cs b h) fun j e hj => ?_
  rw [Bank.withdrawAll_slots] at hj
  split at hj
  · cases hj
  · rename_i untouched
    rw [Bank.applyChanges_untouched b cs j fun x hx same => untouched ⟨x, hx, same⟩]
    exact hj

/-- What a change list leaves in a slot: its change there, or the entry that was (R16). -/
theorem Bank.applyChanges_find {b : Bank} {cs : List StagedChange} (hn : (cs.map (·.slot)).Nodup) (j : Slot) :
    rd (b.applyChanges cs).slots j = match cs.find? fun ch => ch.slot == j with
      | some ch => ch.change.entry
      | none => rd b.slots j := by
  cases hf : cs.find? fun ch => ch.slot == j with
  | none =>
    refine Bank.applyChanges_untouched b cs j fun x hx same => ?_
    exact List.find?_eq_none.1 hf x hx (by simpa using same)
  | some ch =>
    have slot : ch.slot = j := by simpa using List.find?_some hf
    rw [← slot]
    exact Bank.applyChanges_touched b cs ch (List.mem_of_find?_eq_some hf) hn

theorem Bank.applyChanges_inRange {b : Bank} {cs : List StagedChange} (hn : (cs.map (·.slot)).Nodup)
    (hc : changesInRange cs) (h : b.inRange) : (b.applyChanges cs).inRange := by
  intro j e hj
  rw [Bank.applyChanges_find hn] at hj
  cases hf : cs.find? fun ch => ch.slot == j with
  | none => rw [hf] at hj; exact h j e hj
  | some ch =>
    rw [hf] at hj
    refine hc ch (List.mem_of_find?_eq_some hf) e ?_
    cases hch : ch.change with
    | write e' => simp only [hch, Change.entry] at hj; rw [Option.some.inj hj]
    | remove => simp only [hch, Change.entry] at hj; cases hj

/-! ### A COMMIT's check of the tags (R149) -/

/-- The result that the check reads is the table the changes leave. -/
theorem State.resultEntry_eq (s : State) {cs : List StagedChange} (hn : (cs.map (·.slot)).Nodup) (j : Slot) :
    s.resultEntry cs j = rd (s.liveBank.applyChanges cs).slots j := by
  rw [Bank.applyChanges_find hn, State.resultEntry]
  cases cs.find? fun ch => ch.slot == j <;> rfl

theorem State.tagElsewhere_iff (s : State) (cs : List StagedChange) (i : Slot) (t : Tag) : s.tagElsewhere cs i t = true ↔
    ∃ j e, j ≠ i ∧ s.resultEntry cs j = some e ∧ e.enabled = true ∧ e.tag = t := by
  simp only [State.tagElsewhere, List.any_eq_true, Bool.and_eq_true, bne_iff_ne]
  constructor
  · rintro ⟨j, -, hj, hm⟩
    cases he : s.resultEntry cs j with
    | none => rw [he] at hm; cases hm
    | some e =>
      rw [he] at hm
      simp only [Bool.and_eq_true, beq_iff_eq] at hm
      exact ⟨j, e, hj, he, hm.1, hm.2⟩
  · rintro ⟨j, e, hj, he, enabled, tag⟩
    exact ⟨j, mem_allSlots j, hj, by simp [he, enabled, tag]⟩

/-- A staging list that passes the check fits the live bank: two slots with one tag in the result would include a slot that
the list writes (R149). -/
theorem State.changesFit_of_check {s : State} (hn : (s.stagingList.map (·.slot)).Nodup)
    (hr : changesInRange s.stagingList) (hi : s.liveBank.indexed)
    (hd : ∀ ch ∈ s.stagingList, s.duplicates s.stagingList ch = false) : changesFit s.liveBank s.stagingList := by
  have written : ∀ i j e e', i ≠ j → rd (s.liveBank.applyChanges s.stagingList).slots i = some e →
      rd (s.liveBank.applyChanges s.stagingList).slots j = some e' → e.enabled = true → e'.enabled = true →
      e.tag = e'.tag → s.stagingList.find? (fun ch => ch.slot == i) = none := by
    intro i j e e' hij hi hj enabled enabled' same
    cases hf : s.stagingList.find? fun ch => ch.slot == i with
    | none => rfl
    | some ch =>
      have slot : ch.slot = i := by simpa using List.find?_some hf
      rw [Bank.applyChanges_find hn, hf] at hi
      have check := hd ch (List.mem_of_find?_eq_some hf)
      cases hch : ch.change with
      | remove => simp only [hch, Change.entry] at hi; cases hi
      | write e'' =>
        simp only [hch, Change.entry] at hi
        have elsewhere : s.tagElsewhere s.stagingList ch.slot e.tag = true :=
          (s.tagElsewhere_iff _ _ _).2
            ⟨j, e', by rw [slot]; exact hij.symm, by rw [s.resultEntry_eq hn]; exact hj, enabled', same.symm⟩
        simp only [State.duplicates, hch, Option.some.inj hi, enabled, elsewhere] at check
        cases check
  refine ⟨hn, hr, fun i j e e' hij hei hej enabled enabled' same => ?_⟩
  have oldI := written i j e e' hij hei hej enabled enabled' same
  have oldJ := written j i e' e hij.symm hej hei enabled' enabled same.symm
  rw [Bank.applyChanges_find hn, oldI] at hei
  rw [Bank.applyChanges_find hn, oldJ] at hej
  exact Bank.indexed_tagsDistinct hi i j e e' hij hei hej enabled enabled' same

/-! ### The tables -/

/-- The soundness of the tables reads the banks, the table engine's state and the staging list alone. -/
theorem State.tablesSound_congr {s t : State} (he : t.engine = s.engine) (hl : t.liveBank = s.liveBank)
    (hb : t.standbyBank = s.standbyBank) (hs : t.stagingList = s.stagingList) (h : s.tablesSound) : t.tablesSound := by
  simp only [State.tablesSound, State.banksAgree, State.commitsFit, he, hl, hb, hs]
  exact h

theorem State.tablesSound_of_stream {s t : State} (c : StreamChange s t) (h : s.tablesSound) : t.tablesSound :=
  State.tablesSound_congr c.engine c.liveBank c.standbyBank (State.stagingList_congr c.session) h

/-- A staging list replaced by one that is sound keeps the tables sound. -/
theorem State.tablesSound_staging {s t : State} (he : t.engine = s.engine) (hl : t.liveBank = s.liveBank)
    (hb : t.standbyBank = s.standbyBank) (hn : (t.stagingList.map (·.slot)).Nodup) (hr : changesInRange t.stagingList)
    (h : s.tablesSound) : t.tablesSound := by
  obtain ⟨agree, live, standby, liveRange, standbyRange, fit, -, -⟩ := h
  simp only [State.tablesSound, State.banksAgree, State.commitsFit, he, hl, hb]
  exact ⟨agree, live, standby, liveRange, standbyRange, fit, hn, hr⟩

theorem changesInRange_nil : changesInRange [] := fun _ h => by cases h

theorem stageChange_inRange {l m : List StagedChange} {ch : StagedChange} (h : stageChange l ch = some m)
    (hw : ∀ e, ch.change = .write e → e.wellFormed = true) (hl : changesInRange l) : changesInRange m := by
  simp only [stageChange] at h
  split at h
  · cases h
    intro x hx
    obtain ⟨y, hy, rfl⟩ := List.mem_map.1 hx
    split
    · exact hw
    · exact hl y hy
  · split at h
    · cases h
      intro x hx
      rcases List.mem_append.1 hx with hx | hx
      · exact hl x hx
      · rw [List.mem_singleton.1 hx]; exact hw
    · cases h

theorem State.setStaging_sound {s : State} {l : List StagedChange} (hn : (l.map (·.slot)).Nodup)
    (hr : changesInRange l) : ((s.setStaging l).stagingList.map (·.slot)).Nodup ∧
      changesInRange (s.setStaging l).stagingList := by
  rw [State.setStaging_stagingList]
  split
  · exact ⟨hn, hr⟩
  · exact ⟨List.nodup_nil, changesInRange_nil⟩

theorem Bank.empty_slots (i : Slot) : rd Bank.empty.slots i = none := rd_replicate none i

theorem Bank.empty_indexed : Bank.empty.indexed := by
  refine ⟨fun _ h => ?_, fun i e h => ?_, List.nodup_nil⟩
  · cases h
  · rw [Bank.empty_slots] at h
    cases h

theorem Bank.empty_inRange : Bank.empty.inRange := fun i e h => by
  rw [Bank.empty_slots] at h
  cases h

/-- With the engine READY and one sound bank in both places, the tables are sound. -/
theorem State.tablesSound_ready {s : State} {b : Bank} (he : s.engine = .ready) (hl : s.liveBank = b)
    (hb : s.standbyBank = b) (hi : b.indexed) (hr : b.inRange) (hn : (s.stagingList.map (·.slot)).Nodup)
    (hc : changesInRange s.stagingList) : s.tablesSound := by
  simp only [State.tablesSound, State.banksAgree, State.commitsFit, he, hl, hb]
  exact ⟨trivial, hi, hi, hr, hr, trivial, hn, hc⟩

theorem State.tablesSound_acceptCommit {s : State} (c : Command) (hb : s.engine.busy = false)
    (hd : ∀ ch ∈ s.stagingList, s.duplicates s.stagingList ch = false) (h : s.tablesSound) :
    (acceptCommit c s).state.tablesSound := by
  obtain ⟨agree, live, standby, liveRange, standbyRange, fit, slots, range⟩ := h
  have fits : changesFit s.liveBank s.stagingList := State.changesFit_of_check slots range live hd
  have emptied := State.setStaging_sound (s := s) (l := []) List.nodup_nil changesInRange_nil
  refine ⟨(State.banksApart_iff _).1 (State.banksApart_acceptCommit c hb ((State.banksApart_iff _).2 agree)), live, standby,
    liveRange, standbyRange, ?_, emptied⟩
  simp only [State.commitsFit, acceptCommit, EngineState.accept] at fit ⊢
  cases he : s.engine with
  | ready => exact fits
  | preparing k r => rw [he] at hb; cases hb
  | syncing cs q =>
    cases q with
    | none => rw [he] at fit; exact ⟨fit, fits⟩
    | some k => rw [he] at hb; cases hb

theorem State.tablesSound_prepareComplete {s : State} (h : s.tablesSound) : s.prepareComplete.tablesSound := by
  rcases s.prepareComplete_banks with e | ⟨c, before, hl, hb, engine, session⟩
  · rw [e]; exact h
  · have agree' := (State.banksApart_iff _).1 (State.banksApart_prepareComplete ((State.banksApart_iff _).2 h.1))
    obtain ⟨agree, live, standby, liveRange, standbyRange, fit, slots, range⟩ := h
    simp only [State.banksAgree, before] at agree
    simp only [State.commitsFit, before] at fit
    obtain ⟨fitSlots, fitRange, fitTags⟩ := fit
    have staging := State.stagingList_congr session
    refine ⟨agree', ?_⟩
    simp only [State.commitsFit, engine, hl, hb, staging, agree]
    exact ⟨live, Bank.applyChanges_indexed fitSlots fitTags live, liveRange,
      Bank.applyChanges_inRange fitSlots fitRange liveRange, ⟨fitSlots, fitRange, fitTags⟩, slots, range⟩

theorem State.tablesSound_swap {s : State} (h : s.tablesSound) : s.swap.tablesSound := by
  rcases s.swap_banks with e | ⟨c, before, hl, hb, engine, r, session⟩
  · rw [e]; exact h
  · have agree' := (State.banksApart_iff _).1 (State.banksApart_swap ((State.banksApart_iff _).2 h.1))
    obtain ⟨-, live, standby, liveRange, standbyRange, fit, slots, range⟩ := h
    simp only [State.commitsFit, before] at fit
    have staging := s.answered_stagingList c r session
    refine ⟨agree', ?_⟩
    simp only [State.commitsFit, engine, hl, hb, staging]
    exact ⟨standby, live, standbyRange, liveRange, fit, slots, range⟩

/-- The sync leaves the standby bank equal to the live bank, which is sound. -/
theorem State.tablesSound_syncComplete {s : State} (h : s.tablesSound) : s.syncComplete.tablesSound := by
  rcases s.syncComplete_banks with e | ⟨cs, q, before, hl, hb, engine, session⟩
  · rw [e]; exact h
  · have agree' := (State.banksApart_iff _).1 (State.banksApart_syncComplete ((State.banksApart_iff _).2 h.1))
    obtain ⟨agree, live, standby, liveRange, standbyRange, fit, slots, range⟩ := h
    simp only [State.banksAgree, before] at agree
    simp only [State.commitsFit, before] at fit
    have staging := State.stagingList_congr session
    refine ⟨agree', ?_⟩
    simp only [State.commitsFit, engine, hl, hb, staging, agree]
    refine ⟨live, live, liveRange, liveRange, ?_, slots, range⟩
    cases q with
    | none => trivial
    | some k => exact fit.2

theorem kept_tablesSound : Kept State.tablesSound :=
  { FeedsKept.of_change (I := State.tablesSound) (by rintro s _ ⟨_, _, _, _, _, rfl⟩ h; exact h),
    StreamsKept.of_change (I := State.tablesSound) (fun _ _ => State.tablesSound_of_stream) (fun _ _ _ _ h => h),
    PortsKept.of_change (I := State.tablesSound) (fun _ _ _ h => h) with
    record := fun s q k h => State.tablesSound_congr (s := s) rfl rfl rfl (s.recordExecuted_stagingList q k) h
    idle := fun s h => State.tablesSound_congr (s := s) rfl rfl rfl s.restartIdle_stagingList h
    close := fun s h => State.tablesSound_staging (s := s) rfl rfl rfl List.nodup_nil changesInRange_nil h
    inbox := fun _ _ _ _ h => h
    openSession := fun s ss hs h => by
      rcases hs with e | e
      · refine State.tablesSound_staging (s := s) rfl rfl rfl ?_ ?_ h
        · change (ss.staging.map (·.slot)).Nodup
          rw [e]; exact List.nodup_nil
        · change changesInRange ss.staging
          rw [e]; exact changesInRange_nil
      · exact State.tablesSound_congr (s := s) rfl rfl rfl e h
    stage := fun s ch l hw hl h => by
      obtain ⟨-, -, -, -, -, -, slots, range⟩ := id h
      obtain ⟨hn, hr⟩ := State.setStaging_sound (s := s) (stageChange_slots hl slots) (stageChange_inRange hl hw range)
      exact State.tablesSound_staging (s := s) rfl rfl rfl hn hr h
    unstage := fun s p h => by
      obtain ⟨-, -, -, -, -, -, slots, range⟩ := id h
      obtain ⟨hn, hr⟩ := State.setStaging_sound (s := s) (filter_slots p slots)
        fun ch hch => range ch (List.mem_of_mem_filter hch)
      exact State.tablesSound_staging (s := s) rfl rfl rfl hn hr h
    commit := fun c s hb hd h => State.tablesSound_acceptCommit c hb hd h
    idleExpiry := fun s h => by
      rcases s.idleExpire_change with e | ⟨ns, e⟩ <;> rw [e]
      · exact h
      · exact State.tablesSound_staging (s := s) rfl rfl rfl List.nodup_nil changesInRange_nil h
    deliveryFrame := fun s bytes h => by
      obtain ⟨_, _, _, _, _, e, -⟩ := s.deliveryFrameReceived_change bytes
      rw [e]; exact h
    setNotices := fun _ _ _ _ _ _ _ _ _ h => h
    noticeRaise := fun s h => by obtain ⟨_, e⟩ := s.noticeRaise_change; rw [e]; exact h
    noticeMove := fun s h => by obtain ⟨_, _, e⟩ := s.noticeMove_change; rw [e]; exact h
    refill := fun s h => by obtain ⟨_, e⟩ := s.refillExpiry_change; rw [e]; exact h
    por := fun s _ _ => by
      obtain ⟨engine, live, standby⟩ := s.powerOn_banks
      exact State.tablesSound_ready engine live standby Bank.empty_indexed Bank.empty_inRange List.nodup_nil
        changesInRange_nil
    feedEvent := fun s f h => by obtain ⟨_, _, e⟩ := s.feedEvent_change f; rw [e]; exact h
    deliveryDown := fun s _ h => by obtain ⟨_, _, _, _, e⟩ := s.deliveryLinkDown_change; rw [e]; exact h
    start := fun s _ h => by obtain ⟨_, _, e⟩ := s.transmissionStart_change; rw [e]; exact h
    complete := fun s h => by obtain ⟨_, _, e⟩ := s.transmissionComplete_change; rw [e]; exact h
    clearTarget := fun s a b t ht h => by obtain ⟨_, _, _, _, _, _, rfl, -⟩ := State.clearTarget_change ht; exact h
    acknowledge := fun _ _ h => h
    restart := fun s _ h => by
      obtain ⟨-, live, -, liveRange, -, -, slots, range⟩ := h
      obtain ⟨hl, hb, engine, session⟩ := s.restartPart_banks
      have staging := State.stagingList_congr session
      exact State.tablesSound_ready engine hl hb live liveRange (by rw [staging]; exact slots)
        (by rw [staging]; exact range)
    clear := fun s _ h => by
      obtain ⟨-, -, -, -, -, -, slots, range⟩ := h
      obtain ⟨hl, hb, engine, session⟩ := s.clearPart_banks
      have staging := State.stagingList_congr session
      exact State.tablesSound_ready engine hl hb Bank.empty_indexed Bank.empty_inRange (by rw [staging]; exact slots)
        (by rw [staging]; exact range)
    prepare := fun _ h => State.tablesSound_prepareComplete h
    swap := fun _ _ h => State.tablesSound_swap h
    sync := fun _ h => State.tablesSound_syncComplete h }

/-- Settles O11: every change list in hand has passed the check of its COMMIT, so that writing it keeps the index of its
bank exact. -/
theorem tagsStayDistinctAndIndexed : Obligations.TagsStayDistinctAndIndexed := by
  intro s t h he
  exact kept_tablesSound.step (fun _ h => h) (fun _ _ h => h) s t h he

end Sys2Proof.Machine
end

section
/-! Feed monitors stay consistent: what each event makes of a monitor's record, and of the latch of an unusable feed (R78,
R84, R87, R88). -/

namespace Sys2Proof.Machine

/-! ### One monitor's record -/

/-- A record is consistent but for its published usability (R78, R79, R84, R90). -/
def Monitor.sound (m : Monitor) : Prop :=
  m.current.wellFormed = true ∧
    (∀ p ∈ m.pending, p.wellFormed = true ∧ p.advisory = m.current.advisory ∧ p.disabled = m.current.disabled) ∧
    (m.pending.isSome = true → m.window.isSome = true) ∧
    (m.state = .disabled ↔ m.current.disabled = true) ∧ (m.state = .down → m.link = false) ∧
    (m.state.runsWindow = true → m.link = true) ∧ m.window.isSome = m.state.runsWindow ∧
    (m.state.runsWindow = false → m.acceptedRun = 0 ∧ m.rejectTally = 0) ∧ m.acceptedRun ≤ 15 ∧
    m.rejectTally ≤ 15 ∧ (m.state = .inService → m.rejectTally < m.current.disqualify)

theorem Monitor.consistent_iff (m : Monitor) : m.consistent ↔ m.sound ∧ m.usable = m.usability := by
  simp only [Monitor.consistent, Monitor.sound, and_assoc]

/-- Publishing the usability that R87 calls for makes a sound record consistent. -/
theorem Monitor.sound.published {m : Monitor} (h : m.sound) : Monitor.consistent { m with usable := m.usability } :=
  (Monitor.consistent_iff _).2 ⟨h, rfl⟩

theorem Monitor.consistent.sound {m : Monitor} (h : m.consistent) : m.sound := ((m.consistent_iff).1 h).1

theorem Monitor.consistent.usable_eq {m : Monitor} (h : m.consistent) : m.usable = m.usability :=
  ((m.consistent_iff).1 h).2

/-- Counts and a window's counts leave a record consistent. -/
theorem Monitor.consistent.counted {m : Monitor} (h : m.consistent) {w : Option Window} (hw : w.isSome = m.window.isSome)
    (c : FeedCounters) : Monitor.consistent { m with window := w, counters := c } := by
  obtain ⟨current, pending, waits, disabled, down, link, window, runs, accepted, rejected, service, usable⟩ := h
  exact ⟨current, pending, fun hp => hw.trans (waits hp), disabled, down, link, hw.trans window, runs, accepted, rejected,
    service, usable⟩

theorem Settings.wellFormed_iff (c : Settings) : c.wellFormed = true ↔ 100 ≤ c.windowLength ∧ c.windowLength ≤ 65535 ∧
    c.minValid ≤ 65535 ∧ c.acceptMargin ≤ c.rejectMargin ∧ c.rejectMargin ≤ 255 ∧ 1 ≤ c.qualify ∧ c.qualify ≤ 15 ∧
    1 ≤ c.disqualify ∧ c.disqualify ≤ 15 := by
  simp only [Settings.wellFormed, Settings.inRange, Bool.and_eq_true, decide_eq_true_eq, and_assoc]

theorem Settings.wellFormed.disqualify {c : Settings} (h : c.wellFormed = true) : 1 ≤ c.disqualify := by
  rw [Settings.wellFormed_iff] at h; omega

theorem Settings.wellFormed.qualify {c : Settings} (h : c.wellFormed = true) : 1 ≤ c.qualify := by
  rw [Settings.wellFormed_iff] at h; omega

/-- A clamped run is below a count that ends it, if it was below the one before (R89). -/
theorem clampRun_lt {old new run : Nat} (h : run < old) (hn : 1 ≤ new) : clampRun old new run < new := by
  simp only [clampRun]
  split <;> omega

theorem clampRun_le (old new run : Nat) : clampRun old new run ≤ run := by
  simp only [clampRun]
  split <;> omega

/-- The record that adopting leaves: pending settings become current, and the runs are clamped (R89). -/
theorem Monitor.adopt_eq (m : Monitor) : m.adopt = { m with
    current := m.pending.getD m.current
    pending := none
    acceptedRun := clampRun m.current.qualify (m.pending.getD m.current).qualify m.acceptedRun
    rejectTally := clampRun m.current.disqualify (m.pending.getD m.current).disqualify m.rejectTally } := by
  obtain ⟨state, link, current, pending, window, acceptedRun, rejectTally, usable, counters⟩ := m
  cases pending <;> simp [Monitor.adopt, clampRun]

/-- Adopting leaves usability as it was: advisory acts at once (R90; log 8). -/
theorem Monitor.sound.startWindow {m : Monitor} (h : m.sound) (hs : m.state.runsWindow = true) (t : Moment) :
    (m.startWindow t).sound ∧ (m.startWindow t).usability = m.usability := by
  obtain ⟨current, pending, -, disabled, down, link, -, -, accepted, rejected, service⟩ := h
  have settings : (m.pending.getD m.current).wellFormed = true ∧
      (m.pending.getD m.current).advisory = m.current.advisory ∧
      (m.pending.getD m.current).disabled = m.current.disabled := by
    cases hp : m.pending with
    | none => exact ⟨current, rfl, rfl⟩
    | some p => exact pending p hp
  obtain ⟨wellFormed, advisory, disabling⟩ := settings
  simp only [Monitor.startWindow, Monitor.adopt_eq]
  refine ⟨⟨wellFormed, fun p hp => ?_, fun _ => rfl, ?_, down, link, hs.symm, fun off => ?_, ?_, ?_, fun serving => ?_⟩, ?_⟩
  · cases hp
  · rw [disabling]; exact disabled
  · cases off.symm.trans hs
  · exact (clampRun_le _ _ _).trans accepted
  · exact (clampRun_le _ _ _).trans rejected
  · exact clampRun_lt (service serving) (Settings.wellFormed.disqualify wellFormed)
  · simp only [Monitor.usability, advisory]

/-- A record with both runs at 0, no window and nothing pending, in DISABLED or DOWN. -/
theorem Monitor.sound_idle {m : Monitor} (hc : m.current.wellFormed = true) (hp : m.pending = none)
    (hw : m.window = none) (ha : m.acceptedRun = 0) (hr : m.rejectTally = 0)
    (hs : (m.state = .disabled ∧ m.current.disabled = true) ∨
      (m.state = .down ∧ m.current.disabled = false ∧ m.link = false)) : m.sound := by
  have state : m.state.runsWindow = false ∧ (m.state = .disabled ↔ m.current.disabled = true) ∧
      (m.state = .down → m.link = false) ∧ m.state ≠ .inService := by
    rcases hs with ⟨state, disabled⟩ | ⟨state, disabled, link⟩
    · simp [state, disabled, FeedState.runsWindow]
    · simp [state, disabled, link, FeedState.runsWindow]
  obtain ⟨runs, disabled, down, serving⟩ := state
  refine ⟨hc, by simp [hp], by simp [hp], disabled, down, by simp [runs], by simp [hw, runs], fun _ => ⟨ha, hr⟩,
    by omega, by omega, fun h => absurd h serving⟩

/-- A record entering PROBATION with its runs at 0 and its first window (R86). -/
theorem Monitor.sound_probation {m : Monitor} (hc : m.current.wellFormed = true) (hd : m.current.disabled = false)
    (hp : m.pending = none) (ha : m.acceptedRun = 0) (hr : m.rejectTally = 0) (hs : m.state = .probation)
    (hl : m.link = true) (t : Moment) : (m.startWindow t).sound := by
  have runs : m.state.runsWindow = true := by rw [hs]; rfl
  have started : m.startWindow t = { m with window := some ⟨after t m.current.windowLength, 0, 0⟩ } := by
    simp only [Monitor.startWindow, Monitor.adopt, hp]
  rw [started]
  refine ⟨hc, by simp [hp], fun _ => rfl, by simp [hs, hd], by simp [hs], fun _ => hl, runs.symm, by simp [runs],
    by simp [ha], by simp [hr], by simp [hs]⟩

/-- A record without a window has nothing pending and its runs at 0 (R78). -/
theorem Monitor.sound.windowless {m : Monitor} (h : m.sound) (hw : m.state.runsWindow = false) :
    m.pending = none ∧ m.window = none ∧ m.acceptedRun = 0 ∧ m.rejectTally = 0 := by
  obtain ⟨-, -, waits, -, -, -, window, runs, -⟩ := h
  have none : m.window = none := by rw [hw] at window; simpa using window
  refine ⟨?_, none, runs hw⟩
  cases hp : m.pending with
  | none => rfl
  | some p =>
    have := waits (by rw [hp]; rfl)
    rw [none] at this
    cases this

/-! ### The events of one monitor -/

theorem Monitor.sound.after_linkDown {m : Monitor} (h : m.sound) : m.linkDown.sound := by
  obtain ⟨current, pending, waits, disabled, down, link, window, runs, accepted, rejected, service⟩ := id h
  by_cases hs : m.state = .disabled
  · obtain ⟨hp, hw, ha, hr⟩ := h.windowless (by rw [hs]; rfl)
    rw [Monitor.linkDown_of_disabled m hs]
    exact Monitor.sound_idle current hp hw ha hr (.inl ⟨hs, disabled.1 hs⟩)
  · rw [Monitor.linkDown_of_not_disabled m hs]
    have enabled : m.current.disabled = false := by
      simpa using fun hd => hs (disabled.2 hd)
    cases hp : m.pending with
    | none => exact Monitor.sound_idle current rfl rfl rfl rfl (.inr ⟨rfl, enabled, rfl⟩)
    | some p =>
      obtain ⟨wellFormed, -, disabling⟩ := pending p hp
      exact Monitor.sound_idle wellFormed rfl rfl rfl rfl (.inr ⟨rfl, disabling.trans enabled, rfl⟩)

theorem Monitor.sound.after_linkUp {m : Monitor} (now : Moment) (h : m.sound) : (m.linkUp now).sound := by
  obtain ⟨current, pending, waits, disabled, down, link, window, runs, accepted, rejected, service⟩ := id h
  simp only [Monitor.linkUp]
  split
  · rename_i hs
    obtain ⟨hp, -⟩ := h.windowless (by rw [hs]; rfl)
    have enabled : m.current.disabled = false := by
      simpa [hs] using disabled
    exact Monitor.sound_probation
      (m := { m with link := true, state := .probation, acceptedRun := 0, rejectTally := 0 })
      current enabled hp rfl rfl rfl rfl now
  · rename_i hs
    exact ⟨current, pending, waits, disabled, fun e => absurd e hs, fun _ => rfl, window, runs, accepted, rejected,
      service⟩

/-- A run that has reached the qualify count is one of ACCEPTED windows, and the reject tally is then 0 (R83). -/
theorem Monitor.judged_runs (m : Monitor) (v : Verdict) (g : m.rejectTally ≤ 15) :
    (m.judged v).acceptedRun ≤ 15 ∧ (m.judged v).rejectTally ≤ 15 ∧
      (1 ≤ (m.judged v).acceptedRun → (m.judged v).rejectTally = 0) := by
  cases v with
  | accepted => exact ⟨Nat.min_le_right _ _, by simp [Monitor.judged], fun _ => rfl⟩
  | neutral => exact ⟨by simp [Monitor.judged], g, fun h => absurd h (by simp [Monitor.judged])⟩
  | rejected => exact ⟨by simp [Monitor.judged], Nat.min_le_right _ _, fun h => absurd h (by simp [Monitor.judged])⟩

theorem Monitor.judged_kept (m : Monitor) (v : Verdict) : ∃ a r c,
    m.judged v = { m with acceptedRun := a, rejectTally := r, counters := c } := by
  cases v <;> exact ⟨_, _, _, rfl⟩

/-- The record after a verdict and the transition it calls for (R83, R84). -/
theorem Monitor.sound.after_transition {m : Monitor} (v : Verdict) (h : m.sound) (hs : m.state.runsWindow = true) :
    (m.judged v).transition.sound ∧ (m.judged v).transition.state.runsWindow = true := by
  obtain ⟨current, pending, waits, disabled, down, link, window, runs, accepted, rejected, service⟩ := h
  obtain ⟨accepted', rejected', qualified⟩ := m.judged_runs v rejected
  obtain ⟨a, r, c, judged⟩ := m.judged_kept v
  rw [judged] at accepted' rejected' qualified ⊢
  have enabled : m.current.disabled = false := by
    cases hd : m.current.disabled with
    | false => rfl
    | true => rw [disabled.2 hd] at hs; cases hs
  have up := link hs
  simp only [Monitor.transition]
  split
  · rename_i qualifies
    obtain ⟨-, reached⟩ := qualifies
    have tally : r = 0 := qualified ((Settings.wellFormed.qualify current).trans reached)
    refine ⟨⟨current, pending, waits, ?_, ?_, fun _ => up, window.trans hs, ?_, accepted', rejected', fun _ => ?_⟩, rfl⟩
    · simp [enabled]
    · simp
    · simp [FeedState.runsWindow]
    · rw [tally]; exact Settings.wellFormed.disqualify current
  · split
    · refine ⟨⟨current, pending, waits, ?_, ?_, fun _ => up, window.trans hs, ?_, accepted', rejected', ?_⟩, rfl⟩
      · simp [enabled]
      · simp
      · simp [FeedState.runsWindow]
      · simp
    · rename_i stays
      refine ⟨⟨current, pending, waits, disabled, down, link, window, ?_, accepted', rejected', fun serving => ?_⟩, hs⟩
      · simp [hs]
      · have := fun long => stays ⟨serving, long⟩
        exact Nat.lt_of_not_le this

/-- A SET_FEED that disables the feed adopts its settings and abandons the window (R90). -/
theorem Monitor.set_disabling {m : Monitor} (now : Moment) {p : Settings} (hp : p.disabled = true)
    (hm : m.current.disabled = false) : m.set now p = { m with
      state := .disabled, window := none, acceptedRun := 0, rejectTally := 0, current := p, pending := none } := by
  simp only [Monitor.set, hp, hm, Bool.not_false, Bool.and_self, if_true]
  exact Monitor.adopt_of_runs_zero _ rfl rfl

/-- A SET_FEED that enables the feed, whose runs are 0 then, takes it to PROBATION or to DOWN (R90). -/
theorem Monitor.set_enabling {m : Monitor} (now : Moment) {p : Settings} (hp : p.disabled = false)
    (hm : m.current.disabled = true) (ha : m.acceptedRun = 0) (hr : m.rejectTally = 0) : m.set now p =
      if m.link then ({ m with state := .probation, current := p, pending := none } : Monitor).startWindow now
      else { m with state := .down, current := p, pending := none } := by
  have adopted := Monitor.adopt_of_runs_zero
    { m with pending := some p, current := { m.current with advisory := p.advisory, disabled := p.disabled } } ha hr
  simp only [hp] at adopted
  simp [Monitor.set, hp, hm, adopted]

/-- A SET_FEED that neither disables nor enables, with a window running, waits; but its advisory acts at once (R89; log 8). -/
theorem Monitor.set_running {m : Monitor} (now : Moment) {p : Settings} (hp : p.disabled = m.current.disabled)
    (hw : m.window.isSome = true) : m.set now p = { m with
      pending := some p, current := { m.current with advisory := p.advisory, disabled := p.disabled } } := by
  simp [Monitor.set, hp, hw]

/-- A SET_FEED that neither disables nor enables, with no window running and the runs at 0, is adopted at once (R89). -/
theorem Monitor.set_stopped {m : Monitor} (now : Moment) {p : Settings} (hp : p.disabled = m.current.disabled)
    (hw : m.window = none) (ha : m.acceptedRun = 0) (hr : m.rejectTally = 0) : m.set now p = { m with
      current := p, pending := none } := by
  have adopted := Monitor.adopt_of_runs_zero
    { m with pending := some p, current := { m.current with advisory := p.advisory, disabled := p.disabled } } ha hr
  simp only [hp, hw] at adopted
  simp [Monitor.set, hp, hw, adopted]

theorem Monitor.sound.after_set {m : Monitor} (now : Moment) (p : Settings) (hp : p.wellFormed = true) (h : m.sound) :
    (m.set now p).sound := by
  obtain ⟨current, pending, waits, disabled, down, link, window, runs, accepted, rejected, service⟩ := id h
  by_cases same : p.disabled = m.current.disabled
  · by_cases running : m.window.isSome = true
    · rw [Monitor.set_running now same running]
      refine ⟨?_, fun q hq => ?_, fun _ => running, ?_, down, link, window, runs, accepted, rejected, service⟩
      · rw [Settings.wellFormed_iff] at current ⊢; exact current
      · cases hq; exact ⟨hp, rfl, rfl⟩
      · simp only [same]; exact disabled
    · have idle : m.state.runsWindow = false := by rw [← window]; simpa using running
      obtain ⟨-, hw, ha, hr⟩ := h.windowless idle
      rw [Monitor.set_stopped now same hw ha hr]
      refine Monitor.sound_idle hp rfl hw ha hr ?_
      cases hs : m.state with
      | disabled => exact .inl ⟨rfl, same.trans (disabled.1 hs)⟩
      | down => exact .inr ⟨rfl, same.trans (by simpa [hs] using disabled), down hs⟩
      | probation => rw [hs] at idle; cases idle
      | inService => rw [hs] at idle; cases idle
      | quarantine => rw [hs] at idle; cases idle
  · cases off : p.disabled with
    | true =>
      rw [Monitor.set_disabling now off (by simpa [off] using same)]
      exact Monitor.sound_idle hp rfl rfl rfl rfl (.inl ⟨rfl, off⟩)
    | false =>
      have on : m.current.disabled = true := by simpa [off] using same
      obtain ⟨-, hw, ha, hr⟩ := h.windowless (by rw [disabled.2 on]; rfl)
      rw [Monitor.set_enabling now off on ha hr]
      split
      · rename_i up
        exact Monitor.sound_probation (m := { m with state := .probation, current := p, pending := none })
          hp off rfl ha hr rfl up now
      · rename_i isDown
        exact Monitor.sound_idle hp rfl hw ha hr (.inr ⟨rfl, off, by simpa using isDown⟩)

theorem Monitor.sound_restart (m : Monitor) (now : Moment) : (m.restart now).sound := by
  simp only [Monitor.restart]
  split
  · rename_i up
    exact Monitor.sound_probation
      (m := { Monitor.reset with link := m.link, counters := m.counters, state := .probation })
      rfl rfl rfl rfl rfl rfl up now
  · rename_i isDown
    exact Monitor.sound_idle rfl rfl rfl rfl rfl (.inr ⟨rfl, rfl, by simpa using isDown⟩)

/-! ### The monitors and the feed latches -/

/-- One monitor replaced by a consistent record, the latches only set, and that monitor's latch set if it is unusable. -/
theorem State.feedsConsistent_of {s t : State} (f : Feed) (h : s.feedsConsistent)
    (hm : ∀ g, g ≠ f → rd t.monitors g = rd s.monitors g)
    (hl : ∀ g, rd s.feedLatches g = true → rd t.feedLatches g = true) (hf : (rd t.monitors f).consistent)
    (hu : (rd t.monitors f).usable = false → rd t.feedLatches f = true) : t.feedsConsistent := by
  intro g
  by_cases same : g = f
  · rw [same]; exact ⟨hf, hu⟩
  · obtain ⟨consistent, latched⟩ := h g
    rw [hm g same]
    exact ⟨consistent, fun unusable => hl g (latched unusable)⟩

theorem State.feedsConsistent_setMonitor {s : State} {f : Feed} {m : Monitor} (h : s.feedsConsistent) (hm : m.consistent)
    (hu : m.usable = (rd s.monitors f).usable) : (s.setMonitor f m).feedsConsistent := by
  have record : rd (s.setMonitor f m).monitors f = m := rd_wr_self _ _ _
  refine State.feedsConsistent_of f h (fun g hg => rd_wr_ne _ _ hg) (fun _ hl => hl) ?_ ?_
  · rw [record]; exact hm
  · rw [record, hu]; exact (h f).2

/-- What `publish` leaves of the monitors (R88). -/
theorem State.publish_monitors (s : State) (f : Feed) (m : Monitor) (c : UnusableCause) :
    (s.publish f m c).monitors = wr s.monitors f { m with usable := m.usability } := by
  simp only [State.publish]
  split
  · rfl
  · split <;> rfl

/-- A feed that becomes unusable sets its latch, and no other latch changes (R88). -/
theorem State.publish_latches (s : State) (f : Feed) (m : Monitor) (c : UnusableCause) :
    (s.publish f m c).feedLatches = s.feedLatches ∨ (s.publish f m c).feedLatches = wr s.feedLatches f true := by
  simp only [State.publish]
  split
  · exact .inl rfl
  · split
    · exact .inl rfl
    · exact .inr rfl

theorem State.publish_latched (s : State) (f : Feed) (m : Monitor) (c : UnusableCause)
    (h : (rd s.monitors f).usable = false → rd s.feedLatches f = true) (hu : m.usability = false) :
    rd (s.publish f m c).feedLatches f = true := by
  cases hb : (rd s.monitors f).usable with
  | false => rw [State.publish_same s f m c (hb.trans hu.symm)]; exact h hb
  | true => rw [State.publish_down s f m c hb hu]; exact rd_wr_self _ _ _

theorem rd_wr_true {n : Nat} {v : Vector Bool n} {i j : Fin n} (h : rd v j = true) : rd (wr v i true) j = true := by
  rw [rd_wr]; split <;> simp [h]

theorem State.feedsConsistent_publish {s : State} {f : Feed} {m : Monitor} (c : UnusableCause) (h : s.feedsConsistent)
    (hm : m.sound) : (s.publish f m c).feedsConsistent := by
  have record : rd (s.publish f m c).monitors f = { m with usable := m.usability } := by
    rw [State.publish_monitors, rd_wr_self]
  refine State.feedsConsistent_of f h (fun g hg => ?_) (fun g hl => ?_) ?_ fun unusable => ?_
  · rw [State.publish_monitors, rd_wr_ne _ _ hg]
  · rcases s.publish_latches f m c with e | e <;> rw [e]
    · exact hl
    · exact rd_wr_true hl
  · rw [record]; exact hm.published
  · rw [record] at unusable
    exact s.publish_latched f m c (h f).2 unusable

theorem State.feedsConsistent_countFeed {s : State} (f : Feed) (g : FeedCounters → FeedCounters)
    (h : s.feedsConsistent) : (s.countFeed f g).feedsConsistent :=
  State.feedsConsistent_setMonitor h ((h f).1.counted rfl _) rfl

theorem State.feedsConsistent_feedFrameReceived {s : State} (f : Feed) (bytes : List Byte) (h : s.feedsConsistent) :
    (s.feedFrameReceived f bytes).feedsConsistent := by
  have reported : ∀ e, ((s.setPort f { rd s.ports f with receiveStore := [] }).setMonitor f
      ((rd s.monitors f).report e)).feedsConsistent := fun e =>
    State.feedsConsistent_setMonitor h ((h f).1.counted (by cases (rd s.monitors f).window <;> rfl) _) rfl
  simp only [State.feedFrameReceived]
  split
  · exact h
  · simp only [State.classify]
    split
    · exact reported true
    · split
      · exact State.feedsConsistent_countFeed f _ (reported false)
      · split
        · exact State.feedsConsistent_countFeed f _ (reported false)
        · exact reported false

theorem State.feedsConsistent_windowExpiry {s : State} (f : Feed) (h : s.feedsConsistent) :
    (s.windowExpiry f).feedsConsistent := by
  simp only [State.windowExpiry]
  split
  · exact h
  · rename_i w hw
    split
    · obtain ⟨-, -, -, -, -, -, window, -⟩ := (h f).1
      have runs : (rd s.monitors f).state.runsWindow = true := by rw [← window, hw]; rfl
      obtain ⟨sound, runs'⟩ := (h f).1.sound.after_transition (verdict (rd s.monitors f).current w) runs
      have published := State.feedsConsistent_publish (s := s) (f := f) .quarantine h sound
      obtain ⟨started, usability⟩ := (published f).1.sound.startWindow
        (by rw [State.publish_monitors, rd_wr_self]; exact runs') w.expiry
      have usable := (published f).1.usable_eq
      exact State.feedsConsistent_setMonitor published
        ((Monitor.consistent_iff _).2 ⟨started, by
          rw [usability, ← usable]
          simp only [Monitor.startWindow, Monitor.adopt_eq]⟩)
        (by simp only [Monitor.startWindow, Monitor.adopt_eq])
    · exact h

/-! ### Resets -/

theorem Monitor.reset_consistent : Monitor.reset.consistent := (Monitor.consistent_iff _).2
  ⟨Monitor.sound_idle rfl rfl rfl rfl rfl (.inr ⟨rfl, rfl, rfl⟩), rfl⟩

theorem State.feedsConsistent_powerOn (s : State) : s.powerOn.feedsConsistent := by
  intro f
  have monitor : rd s.powerOn.monitors f = Monitor.reset := rd_replicate _ f
  have latch : rd s.powerOn.feedLatches f = true := rd_replicate _ f
  rw [monitor]
  exact ⟨Monitor.reset_consistent, fun _ => latch⟩

/-- A restarted monitor is consistent and its latch set; the others are as they were, and no latch is cleared (R92). -/
theorem State.restartMonitor_feeds (s : State) (f : Feed) :
    (rd (s.restartMonitor f).monitors f).consistent ∧ rd (s.restartMonitor f).feedLatches f = true ∧
      ∀ g, g ≠ f → rd (s.restartMonitor f).monitors g = rd s.monitors g ∧
        (rd s.feedLatches g = true → rd (s.restartMonitor f).feedLatches g = true) := by
  have monitors : (s.restartMonitor f).monitors =
      (s.publish f ((rd s.monitors f).restart s.elapsed) .reset).monitors := rfl
  have latches : (s.restartMonitor f).feedLatches =
      wr (s.publish f ((rd s.monitors f).restart s.elapsed) .reset).feedLatches f true := rfl
  rw [monitors, latches, State.publish_monitors]
  refine ⟨?_, rd_wr_self _ _ _, fun g hg => ⟨rd_wr_ne _ _ hg, fun latched => rd_wr_true ?_⟩⟩
  · rw [rd_wr_self]
    exact (Monitor.sound_restart _ _).published
  · rcases s.publish_latches f ((rd s.monitors f).restart s.elapsed) .reset with e | e <;> rw [e]
    · exact latched
    · exact rd_wr_true latched

theorem State.restartMonitors_feeds (l : List Feed) (s : State) (g : Feed)
    (h : g ∈ l ∨ ((rd s.monitors g).consistent ∧ rd s.feedLatches g = true)) :
    (rd (l.foldl State.restartMonitor s).monitors g).consistent ∧
      rd (l.foldl State.restartMonitor s).feedLatches g = true := by
  induction l generalizing s with
  | nil => exact h.resolve_left (List.not_mem_nil)
  | cons f t ih =>
    obtain ⟨consistent, latched, others⟩ := s.restartMonitor_feeds f
    refine ih (s.restartMonitor f) ?_
    by_cases same : g = f
    · rw [same]; exact .inr ⟨consistent, latched⟩
    · rcases h with member | ⟨consistent', latched'⟩
      · exact .inl ((List.mem_cons.1 member).resolve_left same)
      · obtain ⟨monitor, latch⟩ := others g same
        rw [monitor]
        exact .inr ⟨consistent', latch latched'⟩

theorem State.feedsConsistent_clearPart (s : State) : s.clearPart.feedsConsistent := by
  intro f
  obtain ⟨consistent, latched⟩ := State.restartMonitors_feeds allFeeds
    s.dropControl.abandonCommits.clearStreams.clearNotices f (.inl (mem_allFeeds f))
  have monitor : rd s.clearPart.monitors f = { rd (allFeeds.foldl State.restartMonitor
      s.dropControl.abandonCommits.clearStreams.clearNotices).monitors f with counters := FeedCounters.zero } :=
    rd_tab _ f
  rw [monitor]
  exact ⟨consistent.counted rfl _, fun _ => latched⟩

/-- An acknowledgement clears no latch whose feed is unusable (R142). -/
theorem State.feedsConsistent_acknowledge {s : State} (a : AckTarget) (h : s.feedsConsistent) :
    (s.acknowledge a).feedsConsistent := by
  intro f
  obtain ⟨consistent, latched⟩ := h f
  refine ⟨consistent, fun unusable => ?_⟩
  have held : s.feedHeld f = true := by
    rw [State.feedHeld, show (rd s.monitors f).usable = false from unusable]
    rfl
  have latch : rd (s.acknowledge a).feedLatches f = (rd s.feedLatches f && (!rd a.feeds f || s.feedHeld f)) :=
    rd_tab _ f
  rw [latch, latched unusable, held, Bool.or_true]
  rfl

/-! ### The invariant -/

theorem State.feedsConsistent_congr {s t : State} (hm : t.monitors = s.monitors) (hl : t.feedLatches = s.feedLatches)
    (h : s.feedsConsistent) : t.feedsConsistent := by
  intro f
  rw [hm, hl]
  exact h f

/-- Counts taken anywhere leave the monitors consistent. -/
theorem State.feedsConsistent_counts {s t : State} (hm : ∀ f, ∃ k, rd t.monitors f = { rd s.monitors f with counters := k })
    (hl : t.feedLatches = s.feedLatches) (h : s.feedsConsistent) : t.feedsConsistent := by
  intro f
  obtain ⟨k, e⟩ := hm f
  rw [e, hl]
  exact ⟨(h f).1.counted rfl k, (h f).2⟩

theorem kept_feedsConsistent : Kept State.feedsConsistent :=
  { StreamsKept.of_change (I := State.feedsConsistent)
      (fun _ _ c h => State.feedsConsistent_congr c.monitors c.feedLatches h)
      (fun _ _ _ hm h => State.feedsConsistent_counts hm rfl h),
    ManagementKept.of_change (I := State.feedsConsistent) (fun _ _ _ _ _ _ _ h => h),
    EngineKept.of_change (I := State.feedsConsistent) (fun s b _ h => by
      obtain ⟨x, y, e⟩ := s.setStandby_change b
      rw [e]; exact h) with
    feedFrame := fun _ f bytes h => State.feedsConsistent_feedFrameReceived f bytes h
    linkDown := fun _ _ h => State.feedsConsistent_publish (s := State.setPort _ _ _) _ h (h _).1.sound.after_linkDown
    linkUp := fun s f h => State.feedsConsistent_publish _ h ((h f).1.sound.after_linkUp s.elapsed)
    window := fun _ f h => State.feedsConsistent_windowExpiry f h
    setFeed := fun s f p hp h => by
      have sound := (h f).1.sound.after_set s.elapsed p hp
      simp only [State.applySettings]
      split
      · exact State.feedsConsistent_publish (s := State.setPort _ _ _) _ h sound
      · exact State.feedsConsistent_publish _ h sound
    por := fun s _ _ => s.feedsConsistent_powerOn
    feedEvent := fun s f h => by obtain ⟨_, _, e⟩ := s.feedEvent_change f; rw [e]; exact h
    deliveryDown := fun s _ h => by obtain ⟨_, _, _, _, e⟩ := s.deliveryLinkDown_change; rw [e]; exact h
    start := fun s _ h => by obtain ⟨_, _, e⟩ := s.transmissionStart_change; rw [e]; exact h
    complete := fun s h => by obtain ⟨_, _, e⟩ := s.transmissionComplete_change; rw [e]; exact h
    clearTarget := fun s a b t ht h => by
      obtain ⟨_, _, _, _, _, _, rfl, -, hm⟩ := State.clearTarget_change ht
      exact State.feedsConsistent_counts hm rfl h
    acknowledge := fun _ a h => State.feedsConsistent_acknowledge a h
    restart := fun s _ h => by
      obtain ⟨t, u, d, _, _, _, -, ht, -, c, e, -⟩ := s.restartPart_change
      obtain ⟨x, y, es⟩ := s.setStandby_change s.liveBank
      rw [e]
      exact State.feedsConsistent_congr (c.monitors.trans (by rw [ht, es])) (c.feedLatches.trans (by rw [ht, es])) h
    clear := fun s _ _ => s.feedsConsistent_clearPart
    commit := fun _ _ _ _ h => h
    swap := fun s _ h => by
      rcases s.swap_change with e | ⟨_, t, _, _, _, -, c, -, -, -, e⟩ <;> rw [e]
      · exact h
      · exact State.feedsConsistent_congr c.monitors c.feedLatches h }

/-- Settles O12: every event of a monitor leaves a sound record, and `publish` gives it the usability that R87 calls for,
setting the latch when the feed becomes unusable. -/
theorem feedMonitorsStayConsistent : Obligations.FeedMonitorsStayConsistent := by
  intro s t h he
  exact kept_feedsConsistent.step (fun _ h => h) (fun _ _ h => h) s t h he

end Sys2Proof.Machine
end

section
/-! Runtime records follow the live table: what the events of a stream, and its change classes at a swap, make of its record
(R3, R21, R62). -/

namespace Sys2Proof.Machine

/-! ### The parts of the record that the table fixes -/

/-- What a selector's state says of its active feed and its hold-off timer (the table of R62). -/
def selectorRow (st : SelectorState) (active : Option Feed) (timer : Option Moment) : Prop :=
  match st with
  | .noFeed => active = none ∧ timer = none
  | .primary | .backup => active.isSome = true ∧ timer = none
  | .revertWait => active.isSome = true ∧ timer.isSome = true

/-- A rescue run counts rescues by a listed feed (R62, R72). -/
def Selector.runListed (feeds : List Feed) (q : Selector) : Prop := ∀ k ∈ q.rescueRun, k.feed ∈ feeds ∧ 1 ≤ k.count

theorem Selector.agrees_iff (feeds : List Feed) (q : Selector) : q.agrees feeds ↔
    (∀ a ∈ q.active, a ∈ feeds) ∧ q.runListed feeds ∧ selectorRow q.state q.active q.holdOff := Iff.rfl

/-- The selector part stands exactly for a PREFERRED entry and agrees with its feed list (R6, R20, R62). -/
def Runtime.selects (e : Entry) (r : Runtime) : Prop :=
  (r.selector = none ↔ e.mode = .first) ∧ ∀ q ∈ r.selector, q.agrees e.feeds

/-- The hold list is within the hold limit and of listed feeds, and the selector part agrees (R11, R22, R62). -/
def Runtime.carries (e : Entry) (r : Runtime) : Prop :=
  r.hold.length ≤ e.holdLimit ∧ (∀ h ∈ r.hold, h.feed ∈ e.feeds) ∧ r.selects e

/-- The fields that each merge state holds (R21). -/
def Runtime.shaped (r : Runtime) : Prop :=
  r.mergeState ≠ .disabled ∧ (r.mergeState = .seeking → r.nes = none ∧ r.hold = [] ∧ r.due = none) ∧
    (r.mergeState = .tracking ∨ r.mergeState = .bridging → r.nes.isSome = true ∧ r.due.isSome = true) ∧
    (r.mergeState = .starved → r.nes.isSome = true ∧ r.hold = [] ∧ r.due = none)

theorem Runtime.follows_iff (e : Entry) (r : Runtime) : r.follows e ↔ r.shaped ∧ r.carries e := by
  simp only [Runtime.follows, Runtime.shaped, Runtime.carries, Runtime.selects, and_assoc]

theorem Runtime.shaped_followed {r : Runtime} (hs : r.followed) (hn : r.nes.isSome = true) (hd : r.due.isSome = true) :
    r.shaped := by
  rcases hs with h | h <;> simp [Runtime.shaped, h, hn, hd]

theorem Runtime.shaped.followed_of_hold {r : Runtime} (h : r.shaped) (hh : r.hold ≠ []) : r.followed := by
  obtain ⟨enabled, seeking, -, starved⟩ := h
  cases hs : r.mergeState with
  | disabled => exact absurd hs enabled
  | seeking => obtain ⟨-, empty, -⟩ := seeking hs; exact absurd empty hh
  | tracking => exact .inl hs
  | bridging => exact .inr hs
  | starved => obtain ⟨-, empty, -⟩ := starved hs; exact absurd empty hh

/-! ### What stays of a record while copies pass -/

variable {c : StreamCtx} {v w u : StreamView}

/-- From `v` to `w` the merge state and the due timer stay, a NES is not lost, the hold list gives up copies at its front
only, and the selector part keeps to the entry. -/
structure StreamView.Passes (c : StreamCtx) (v w : StreamView) : Prop where
  mergeState : w.rt.mergeState = v.rt.mergeState
  due : w.rt.due = v.rt.due
  nes : w.rt.nes.isSome = v.rt.nes.isSome
  hold : w.rt.hold <:+ v.rt.hold
  selects : v.rt.selects c.entry → w.rt.selects c.entry

theorem StreamView.Passes.refl (c : StreamCtx) (v : StreamView) : v.Passes c v :=
  ⟨rfl, rfl, rfl, List.suffix_refl _, id⟩

theorem StreamView.Passes.trans (h : v.Passes c w) (g : w.Passes c u) : v.Passes c u :=
  ⟨g.mergeState.trans h.mergeState, g.due.trans h.due, g.nes.trans h.nes, g.hold.trans h.hold,
    fun s => g.selects (h.selects s)⟩

theorem StreamView.Passes.carries (h : v.Passes c w) (hv : v.rt.carries c.entry) : w.rt.carries c.entry := by
  obtain ⟨limit, listed, selects⟩ := hv
  exact ⟨h.hold.length_le.trans limit, fun x hx => listed x (h.hold.subset hx), h.selects selects⟩

theorem StreamView.Passes.shaped (h : v.Passes c w) (hv : v.rt.shaped) : w.rt.shaped := by
  obtain ⟨enabled, seeking, followed, starved⟩ := hv
  simp only [Runtime.shaped, h.mergeState, h.due, h.nes]
  refine ⟨enabled, fun hs => ?_, followed, fun hs => ?_⟩
  · obtain ⟨nes, hold, due⟩ := seeking hs
    have suffix := h.hold
    have none := h.nes
    rw [hold] at suffix
    rw [nes] at none
    exact ⟨by simpa using none, List.suffix_nil.1 suffix, due⟩
  · obtain ⟨nes, hold, due⟩ := starved hs
    have suffix := h.hold
    rw [hold] at suffix
    exact ⟨nes, List.suffix_nil.1 suffix, due⟩

theorem StreamView.Passes.follows (h : v.Passes c w) (hv : v.rt.follows c.entry) : w.rt.follows c.entry := by
  rw [Runtime.follows_iff] at hv ⊢
  exact ⟨h.shaped hv.1, h.carries hv.2⟩

theorem StreamView.Passes.followed (h : v.Passes c w) (hv : v.rt.followed) : w.rt.followed := by
  simp only [Runtime.followed, h.mergeState]
  exact hv

/-- A change of the record's other fields. -/
theorem StreamView.Passes.of_fields (hs : w.rt.mergeState = v.rt.mergeState) (hd : w.rt.due = v.rt.due)
    (hn : w.rt.nes = v.rt.nes) (hh : w.rt.hold = v.rt.hold) (hq : w.rt.selector = v.rt.selector) : v.Passes c w := by
  refine ⟨hs, hd, by rw [hn], by rw [hh], fun h => ?_⟩
  simp only [Runtime.selects, hq]
  exact h

/-- A change of the selector part alone. -/
theorem StreamView.Passes.of_selector {q : Option Selector} (hr : w.rt = { v.rt with selector := q })
    (hq : v.rt.selects c.entry → Runtime.selects c.entry { v.rt with selector := q }) : v.Passes c w := by
  refine ⟨by rw [hr], by rw [hr], by rw [hr], by rw [hr], fun h => ?_⟩
  rw [hr]
  exact hq h

theorem StreamView.passes_noteRefusal (c : StreamCtx) (v : StreamView) : v.Passes c v.noteRefusal :=
  .of_fields rfl rfl rfl rfl rfl

theorem StreamView.passes_noBufferDrop (c : StreamCtx) (v : StreamView) : v.Passes c v.noBufferDrop :=
  .of_fields rfl rfl rfl rfl rfl

theorem StreamView.passes_freeBuffers (c : StreamCtx) (n : Nat) (v : StreamView) : v.Passes c (v.freeBuffers c n) := by
  have record := StreamView.freeBuffers_rt c n v
  exact .of_fields (by rw [record]) (by rw [record]) (by rw [record]) (by rw [record]) (by rw [record])

theorem StreamView.passes_deliver (c : StreamCtx) (f : Frame) (v : StreamView) : v.Passes c (v.deliver c f) := by
  simp only [StreamView.deliver]
  split
  · exact .of_fields rfl rfl rfl rfl rfl
  · refine StreamView.Passes.trans ?_ (StreamView.passes_freeBuffers c 1 _)
    exact .of_fields rfl rfl rfl rfl rfl

theorem StreamView.passes_advance (c : StreamCtx) (v : StreamView) : v.Passes c v.advance :=
  ⟨rfl, rfl, by simp [StreamView.advance, StreamView.mapRt], List.suffix_refl _, id⟩

theorem StreamView.passes_declareLost (c : StreamCtx) (m : Seq) (v : StreamView) : v.Passes c (v.declareLost c m) := by
  cases hn : v.rt.nes with
  | none => rw [show v.declareLost c m = v by simp only [StreamView.declareLost, hn]]; exact .refl c v
  | some n =>
    by_cases same : n = m
    · rw [← same, StreamView.declareLost_self c v n hn]; exact .refl c v
    · rw [StreamView.declareLost_eq c v n m hn same]
      exact ⟨rfl, rfl, by rw [hn]; rfl, List.suffix_refl _, id⟩

/-! ### The selector part -/

theorem Runtime.selects_map {e : Entry} {r : Runtime} {g : Selector → Selector} (h : r.selects e)
    (hg : ∀ q, q.agrees e.feeds → (g q).agrees e.feeds) : Runtime.selects e { r with selector := r.selector.map g } := by
  obtain ⟨present, agrees⟩ := h
  refine ⟨by rw [← present]; exact Option.map_eq_none_iff, fun q hq => ?_⟩
  obtain ⟨p, hp, rfl⟩ := Option.map_eq_some_iff.1 hq
  exact hg p (agrees p hp)

/-- A rescue run that is cleared leaves the selector part in agreement (R73). -/
theorem Selector.agrees.runCleared {feeds : List Feed} {q : Selector} (h : q.agrees feeds) :
    Selector.agrees feeds { q with rescueRun := none } := by
  obtain ⟨listed, -, row⟩ := h
  exact ⟨listed, fun k hk => (Option.not_mem_none k hk).elim, row⟩

/-- The record that a change of the active feed leaves: the selector part's state, active feed and timer are set, and at a
switch the rescue run is cleared (R73). -/
theorem StreamView.setActive_rt (c : StreamCtx) (dest : Option Feed) (st : SelectorState) (timer : Option Moment)
    (v : StreamView) : (v.setActive c dest st timer).rt = { v.rt with
      selector := v.rt.selector.map fun q => { q with
        state := st, active := dest, holdOff := timer
        rescueRun := if q.active = dest then q.rescueRun else none } } := by
  cases hq : v.rt.selector with
  | none =>
    simp only [StreamView.setActive]
    split <;> simp [StreamView.mapSelector, StreamView.mapRt, StreamView.raise, hq]
  | some q =>
    by_cases same : q.active = dest
    · rw [StreamView.setActive_stay c v q dest st timer hq same]
      simp [same]
    · rw [StreamView.setActive_switch c v q dest st timer hq same]
      simp [same]

/-- A change of the active feed to a listed one, or to none, with the state and timer of its row, makes the selector part
agree, whatever its active feed was. -/
theorem StreamView.setActive_selects {dest : Option Feed} {st : SelectorState} {timer : Option Moment}
    (hp : v.rt.selector = none ↔ c.entry.mode = .first) (hq : ∀ q ∈ v.rt.selector, q.runListed c.entry.feeds)
    (hd : ∀ a ∈ dest, a ∈ c.entry.feeds) (hr : selectorRow st dest timer) :
    (v.setActive c dest st timer).rt.selects c.entry := by
  rw [StreamView.setActive_rt]
  refine ⟨by rw [← hp]; exact Option.map_eq_none_iff, fun q' hq' => ?_⟩
  obtain ⟨q, present, rfl⟩ := Option.map_eq_some_iff.1 hq'
  refine ⟨hd, fun k hk => ?_, hr⟩
  split at hk
  · exact hq q present k hk
  · exact (Option.not_mem_none k hk).elim

theorem StreamCtx.settled_row (c : StreamCtx) (p : SelectionPart) (better : Bool) (timer : Option Moment) (f : Feed) :
    selectorRow (c.settled p better timer).1 (some f) (c.settled p better timer).2 := by
  simp only [StreamCtx.settled]
  split
  · exact ⟨rfl, rfl⟩
  · split
    · exact ⟨rfl, rfl⟩
    · split
      · exact ⟨rfl, ‹_›⟩
      · split
        · exact ⟨rfl, rfl⟩
        · exact ⟨rfl, rfl⟩

theorem StreamCtx.best_listed {c : StreamCtx} {f : Feed} (h : c.best = some f) : f ∈ c.entry.feeds :=
  List.mem_of_find?_eq_some h

/-- An immediate switch makes the selector part agree (R69). -/
theorem StreamView.immediateSwitch_selects (hp : v.rt.selector = none ↔ c.entry.mode = .first)
    (hq : ∀ q ∈ v.rt.selector, q.runListed c.entry.feeds) : (v.immediateSwitch c).rt.selects c.entry := by
  simp only [StreamView.immediateSwitch]
  split
  · rename_i f best
    refine StreamView.setActive_selects hp hq (fun a ha => ?_) ⟨rfl, rfl⟩
    cases ha
    exact StreamCtx.best_listed best
  · exact StreamView.setActive_selects hp hq (fun a ha => (Option.not_mem_none a ha).elim) ⟨rfl, rfl⟩

theorem StreamView.immediateSwitch_rt (c : StreamCtx) (v : StreamView) : ∃ q,
    (v.immediateSwitch c).rt = { v.rt with selector := q } := by
  simp only [StreamView.immediateSwitch]
  split <;> exact ⟨_, StreamView.setActive_rt ..⟩

/-- An evaluation makes the selector part agree, whatever its active feed was (R69, R70, R75). -/
theorem StreamView.evaluate_selects (p : SelectionPart) (hp : v.rt.selector = none ↔ c.entry.mode = .first)
    (hq : ∀ q ∈ v.rt.selector, q.runListed c.entry.feeds) : (v.evaluate c p).rt.selects c.entry := by
  simp only [StreamView.evaluate]
  split
  · rename_i none
    exact ⟨hp, fun q h => by rw [none] at h; exact (Option.not_mem_none q h).elim⟩
  · rename_i q _
    split
    · exact StreamView.immediateSwitch_selects hp hq
    · rename_i serves
      split
      · exact StreamView.immediateSwitch_selects hp hq
      · cases ha : q.active with
        | none => exact absurd (by simp [ha, StreamCtx.activeUsable]) serves
        | some a =>
          have listed : a ∈ c.entry.feeds := by
            simp only [ha, StreamCtx.activeUsable, Bool.not_eq_true', Bool.and_eq_false_imp, List.contains_iff_mem,
              Classical.not_imp] at serves
            exact serves.1
          exact StreamView.setActive_selects hp hq (fun b hb => by cases hb; exact listed) (c.settled_row _ _ _ a)

theorem StreamView.evaluate_rt (c : StreamCtx) (p : SelectionPart) (v : StreamView) : ∃ q,
    (v.evaluate c p).rt = { v.rt with selector := q } := by
  simp only [StreamView.evaluate]
  split
  · exact ⟨v.rt.selector, rfl⟩
  · split
    · exact v.immediateSwitch_rt c
    · split
      · exact v.immediateSwitch_rt c
      · exact ⟨_, StreamView.setActive_rt ..⟩

theorem Runtime.selects.runListed {e : Entry} {r : Runtime} (h : r.selects e) :
    ∀ q ∈ r.selector, q.runListed e.feeds := fun q hq => (h.2 q hq).2.1

theorem RescueRun.next_listed {feeds : List Feed} {run : Option RescueRun} {g : Feed}
    (h : ∀ k ∈ run, k.feed ∈ feeds ∧ 1 ≤ k.count) (hg : g ∈ feeds) :
    (RescueRun.next run g).feed ∈ feeds ∧ 1 ≤ (RescueRun.next run g).count := by
  simp only [RescueRun.next]
  split
  · rename_i r
    split
    · exact ⟨(h r rfl).1, Nat.le_add_left 1 _⟩
    · exact ⟨hg, le_refl 1⟩
  · exact ⟨hg, le_refl 1⟩

/-- A rescue by a listed feed keeps the selector part in agreement (R72). -/
theorem StreamView.passes_reportRescue {g : Feed} (hg : g ∈ c.entry.feeds) (v : StreamView) :
    v.Passes c (v.reportRescue c g) := by
  simp only [StreamView.reportRescue]
  split
  · rename_i p q mode present
    split
    · exact .refl c v
    · split
      · refine .of_selector (StreamView.setActive_rt ..) fun h => ?_
        rw [← StreamView.setActive_rt]
        exact StreamView.setActive_selects h.1 h.runListed (fun a ha => by cases ha; exact hg) (c.settled_row _ _ _ g)
      · refine .of_selector rfl fun h => ⟨by rw [← h.1]; exact Option.map_eq_none_iff, fun q' hq' => ?_⟩
        rw [present] at hq'
        cases hq'
        obtain ⟨listed, run, row⟩ := h.2 q present
        exact ⟨listed, fun k hk => by cases hk; exact RescueRun.next_listed run hg, row⟩
  · exact .refl c v

/-! ### Releases -/

theorem StreamView.passes_runCleared (v : StreamView) :
    v.Passes c (v.mapSelector fun q => { q with rescueRun := none }) :=
  .of_selector rfl fun h => Runtime.selects_map h fun _ => Selector.agrees.runCleared

theorem StreamView.passes_release {copy : Copy} (hl : copy.feed ∈ c.entry.feeds) (resync seek : Bool) (v : StreamView) :
    v.Passes c (v.release c copy resync seek) := by
  simp only [StreamView.release]
  split
  · refine (StreamView.Passes.trans ?_ (StreamView.passes_deliver c _ _)).trans (StreamView.passes_reportRescue hl _)
    exact .of_fields rfl rfl rfl rfl rfl
  · refine (StreamView.Passes.trans ?_ (StreamView.passes_deliver c _ _)).trans (StreamView.passes_runCleared _)
    exact .of_fields rfl rfl rfl rfl rfl

theorem StreamView.passes_releaseRun (any : Bool) (l : List Copy) (v : StreamView) (hv : v.rt.hold = l)
    (hl : ∀ h ∈ l, h.feed ∈ c.entry.feeds) : v.Passes c (v.releaseRun c any l) := by
  induction l generalizing v with
  | nil => exact .refl c v
  | cons h rest ih =>
    simp only [StreamView.releaseRun]
    split
    · have shorter : v.Passes c (v.mapRt fun r => { r with hold := rest }) :=
        ⟨rfl, rfl, rfl, hv ▸ List.suffix_cons h rest, id⟩
      have released := (shorter.trans (StreamView.passes_release (hl h (List.mem_cons_self ..)) false false _)).trans
        (StreamView.passes_advance c _)
      exact released.trans (ih _ (by simp [StreamView.mapRt]) fun x hx => hl x (List.mem_cons_of_mem _ hx))
    · exact .refl c v

/-- The closing of an event that released a copy leaves a followed stream with its due timer armed (R32). -/
theorem StreamView.closeArrival_follows (hs : v.rt.followed) (hn : v.rt.nes.isSome = true)
    (hc : v.rt.carries c.entry) : (v.closeArrival c).rt.follows c.entry := by
  rw [StreamView.closeArrival_eq, Runtime.follows_iff]
  refine ⟨Runtime.shaped_followed ?_ hn rfl, hc⟩
  rcases hs with h | h <;> simp [h, Runtime.followed]

theorem StreamView.reexamine_follows (h : v.rt.follows c.entry) : (v.reexamine c).rt.follows c.entry := by
  cases hh : v.rt.hold with
  | nil => rw [StreamView.reexamine_empty c v hh]; exact h
  | cons x rest =>
    simp only [StreamView.reexamine, hh]
    split
    · rw [Runtime.follows_iff] at h
      obtain ⟨shaped, carries⟩ := h
      have followed := shaped.followed_of_hold (by rw [hh]; exact List.cons_ne_nil x rest)
      have run := StreamView.passes_releaseRun (c := c) false (x :: rest) v hh fun y hy => carries.2.1 y (hh ▸ hy)
      obtain ⟨-, -, armed, -⟩ := shaped
      exact StreamView.closeArrival_follows (run.followed followed) (run.nes.trans (armed followed).1) (run.carries carries)
    · exact h

/-! ### Arrivals -/

/-- A record that releases and refusals leave, closed if they released a copy (R32). -/
theorem StreamView.closeIfReleased_follows (hw : w.rt.shaped) (hs : w.rt.followed) (hc : w.rt.carries c.entry) :
    (w.closeIfReleased c).rt.follows c.entry := by
  simp only [StreamView.closeIfReleased]
  split
  · exact StreamView.closeArrival_follows hs (hw.2.2.1 hs).1 hc
  · exact (Runtime.follows_iff _ _).2 ⟨hw, hc⟩

theorem insertHold_mem {n : Seq} {copy x : Copy} {l : List Copy} : x ∈ insertHold n copy l ↔ x = copy ∨ x ∈ l := by
  induction l with
  | nil => simp [insertHold]
  | cons h t ih =>
    simp only [insertHold]
    split
    · simp
    · simp only [List.mem_cons, ih]; tauto

/-- A copy held, or dropped on a refused claim, where the hold list has a place. -/
theorem StreamView.hold_follows {n : Seq} {copy : Copy} (hl : copy.feed ∈ c.entry.feeds) (hs : v.rt.followed)
    (h : v.rt.follows c.entry) (hr : v.rt.hold.length < c.entry.holdLimit) :
    (v.hold n copy).rt.follows c.entry ∧ (v.hold n copy).rt.followed := by
  rw [Runtime.follows_iff] at h ⊢
  obtain ⟨shaped, limit, listed, selects⟩ := h
  have armed := shaped.2.2.1 hs
  by_cases granted : Config.holdReserve < v.pool.free
  · rw [StreamView.hold_granted v n copy granted]
    refine ⟨⟨Runtime.shaped_followed hs armed.1 armed.2, ?_, fun x hx => ?_, selects⟩, hs⟩
    · simpa using hr
    · rcases insertHold_mem.1 hx with rfl | hx
      · exact hl
      · exact listed x hx
  · have refused : v.hold n copy = v.noBufferDrop := by
      simp only [StreamView.hold, StreamView.holdGranted, granted, decide_false, Bool.false_eq_true, if_false]
    rw [refused]
    have passes := StreamView.passes_noBufferDrop c v
    exact ⟨⟨passes.shaped shaped, passes.carries ⟨limit, listed, selects⟩⟩, passes.followed hs⟩

theorem StreamView.passes_releaseNext {copy : Copy} (hl : copy.feed ∈ c.entry.feeds)
    (hv : ∀ h ∈ v.rt.hold, h.feed ∈ c.entry.feeds) : v.Passes c (v.releaseNext c copy) := by
  simp only [StreamView.releaseNext]
  split
  · have released := ((StreamView.Passes.of_fields (v := v) (w := v.takeBuffer) (c := c) rfl rfl rfl rfl rfl).trans
      (StreamView.passes_release hl false false _)).trans (StreamView.passes_advance c _)
    exact released.trans (StreamView.passes_releaseRun false _ _ rfl fun x hx => hv x (released.hold.subset hx))
  · exact StreamView.passes_noBufferDrop c v

theorem StreamView.passes_discardFallback (n : Seq) (v : StreamView) : v.Passes c (v.discardFallback c n) := by
  simp only [StreamView.discardFallback]
  split
  · refine StreamView.Passes.trans ?_ (StreamView.passes_freeBuffers c 1 _)
    exact ⟨rfl, rfl, rfl, List.tail_suffix _, id⟩
  · exact .refl c v

theorem StreamView.declareLost_nes {n : Seq} (m : Seq) (h : v.rt.nes = some n) :
    (v.declareLost c m).rt.nes = some m := by
  by_cases same : n = m
  · rw [← same, StreamView.declareLost_self c v n h]; exact h
  · rw [StreamView.declareLost_eq c v n m h same]

/-- The release run of a pressure release makes room, or it leaves the copy next (R36, R37). -/
theorem StreamView.pressureRun_room {n : Seq} {copy : Copy} (hn : v.rt.nes = some n)
    (hh : ∀ h ∈ v.rt.hold.head?, h.seq ≠ copy.seq) (hl : ∀ h ∈ v.rt.hold, h.feed ∈ c.entry.feeds) :
    let x := (v.declareLost c (pressureMark n copy v.rt.hold)).releaseRun c true v.rt.hold
    x.rt.nes = some copy.seq ∨ x.rt.hold.length < v.rt.hold.length := by
  have nes := StreamView.declareLost_nes (c := c) (pressureMark n copy v.rt.hold) hn
  have hold := StreamView.declareLost_hold c (pressureMark n copy v.rt.hold) v
  generalize v.declareLost c (pressureMark n copy v.rt.hold) = w at nes hold
  cases hv : v.rt.hold with
  | nil =>
    rw [hv] at nes
    exact .inl nes
  | cons h t =>
    rw [hv] at nes hold hl
    simp only [pressureMark] at nes
    by_cases nearer : dist n h.seq < dist n copy.seq
    · rw [if_pos nearer] at nes
      right
      simp only [StreamView.releaseRun, nes, true_or, and_self, if_true]
      have rest := StreamView.passes_releaseRun (c := c) true t
        (((w.mapRt fun r => { r with hold := t }).release c h false false).advance) (by simp [StreamView.mapRt])
        fun x hx => hl x (List.mem_cons_of_mem _ hx)
      have bound := rest.hold.length_le
      simp [StreamView.mapRt] at bound
      exact Nat.lt_succ_of_le bound
    · rw [if_neg nearer] at nes
      have head : copy.seq ≠ h.seq := fun e => hh h (by rw [hv]; rfl) e.symm
      left
      simp [StreamView.releaseRun, nes, head]

theorem StreamView.pressureRelease_follows {n : Seq} {copy : Copy} (hf : copy.feed ∈ c.entry.feeds)
    (hs : v.rt.followed) (hn : v.rt.nes = some n) (h : v.rt.follows c.entry)
    (hh : ∀ h ∈ v.rt.hold.head?, h.seq ≠ copy.seq) : (v.pressureRelease c n copy).rt.follows c.entry := by
  obtain ⟨shaped, limit, listed, selects⟩ := (Runtime.follows_iff _ _).1 h
  have room := StreamView.pressureRun_room hn hh listed
  have lost := StreamView.passes_declareLost c (pressureMark n copy v.rt.hold) v
  have run := lost.trans (StreamView.passes_releaseRun true v.rt.hold _ (StreamView.declareLost_hold c _ v) listed)
  simp only [StreamView.pressureRelease, StreamView.declareLost_hold]
  generalize (v.declareLost c (pressureMark n copy v.rt.hold)).releaseRun c true v.rt.hold = x at run room
  have held : x.rt.hold.length < c.entry.holdLimit → (x.hold n copy).rt.follows c.entry ∧ (x.hold n copy).rt.followed :=
    StreamView.hold_follows hf (run.followed hs) (run.follows h)
  simp only [StreamView.reconsider]
  cases hx : x.rt.nes with
  | none =>
    have some := run.nes
    rw [hx, hn] at some
    cases some
  | some m =>
    have held : x.rt.hold.length < c.entry.holdLimit → ((x.hold m copy).closeIfReleased c).rt.follows c.entry := by
      intro place
      obtain ⟨follows, followed⟩ := StreamView.hold_follows (n := m) hf (run.followed hs) (run.follows h) place
      obtain ⟨shaped', carries'⟩ := (Runtime.follows_iff _ _).1 follows
      exact StreamView.closeIfReleased_follows shaped' followed carries'
    dsimp only
    split
    · split
      · have next := run.trans (StreamView.passes_releaseNext hf fun y hy => listed y (run.hold.subset hy))
        exact StreamView.closeIfReleased_follows (next.shaped shaped) (next.followed hs)
          (next.carries ⟨limit, listed, selects⟩)
      · rename_i full
        exact held (by have := not_or.1 full; omega)
    · rename_i early
      refine held ((room.resolve_left fun e => early ?_).trans_le limit)
      rw [hx] at e
      exact (Option.some.inj e).symm

theorem StreamView.arriveNext_follows {n : Seq} {copy : Copy} (hf : copy.feed ∈ c.entry.feeds) (hs : v.rt.followed)
    (hn : v.rt.nes = some n) (hc : copy.seq = n) (h : v.rt.follows c.entry) :
    (v.arriveNext c n copy).rt.follows c.entry := by
  obtain ⟨shaped, limit, listed, selects⟩ := (Runtime.follows_iff _ _).1 h
  simp only [StreamView.arriveNext]
  split
  · have discard := StreamView.passes_discardFallback (c := c) n v
    have next := discard.trans (StreamView.passes_releaseNext hf fun y hy => listed y (discard.hold.subset hy))
    exact StreamView.closeIfReleased_follows (next.shaped shaped) (next.followed hs)
      (next.carries ⟨limit, listed, selects⟩)
  · split
    · exact (StreamView.Passes.of_fields rfl rfl rfl rfl rfl).follows h
    · rename_i noFallback
      split
      · rename_i room
        exact (StreamView.hold_follows hf hs h (by simpa [StreamView.holdHasRoom] using room)).1
      · refine StreamView.pressureRelease_follows hf hs hn h fun x hx same => noFallback ?_
        cases hv : v.rt.hold with
        | nil => rw [hv] at hx; cases hx
        | cons y t =>
          rw [hv] at hx
          cases hx
          simp [headIsFallback, same, hc]

theorem StreamView.arriveAhead_follows {n : Seq} {copy : Copy} (hf : copy.feed ∈ c.entry.feeds) (hs : v.rt.followed)
    (hn : v.rt.nes = some n) (h : v.rt.follows c.entry) : (v.arriveAhead c n copy).rt.follows c.entry := by
  simp only [StreamView.arriveAhead]
  split
  · split
    · obtain ⟨shaped, limit, listed, selects⟩ := (Runtime.follows_iff _ _).1 h
      have armed := shaped.2.2.1 hs
      refine (Runtime.follows_iff _ _).2 ⟨Runtime.shaped_followed hs armed.1 armed.2, ?_, fun x hx => ?_, selects⟩
      · exact (replaceHeld_length copy v.rt.hold).le.trans limit
      · obtain ⟨y, hy, rfl⟩ := List.mem_map.1 hx
        split
        · exact hf
        · exact listed y hy
    · exact (StreamView.Passes.of_fields rfl rfl rfl rfl rfl).follows h
  · rename_i unheld
    split
    · rename_i room
      exact (StreamView.hold_follows hf hs h (by simpa [StreamView.holdHasRoom] using room)).1
    · refine StreamView.pressureRelease_follows hf hs hn h fun x hx same => ?_
      have := List.find?_eq_none.1 unheld x (List.mem_of_mem_head? hx)
      simp [same] at this

theorem StreamView.resynchronise_follows {copy : Copy} (hf : copy.feed ∈ c.entry.feeds) (h : v.rt.follows c.entry) :
    (v.resynchronise c copy).rt.follows c.entry := by
  obtain ⟨-, -, -, selects⟩ := (Runtime.follows_iff _ _).1 h
  have flushed (x y : StreamView) (hh : x.rt.hold = []) (hq : x.rt.selector = v.rt.selector)
      (hs : y.rt.mergeState = .tracking) (hn : y.rt.nes = some (copy.seq + 1))
      (hy : y.rt.hold = (x.release c copy true false).rt.hold)
      (hz : y.rt.selector = (x.release c copy true false).rt.selector) : (y.closeArrival c).rt.follows c.entry := by
    have carries : (x.release c copy true false).rt.carries c.entry := by
      refine (StreamView.passes_release hf true false x).carries ⟨by simp [hh], by simp [hh], ?_⟩
      simp only [Runtime.selects, hq]
      exact selects
    refine StreamView.closeArrival_follows (.inl hs) (by rw [hn]; rfl) ?_
    simp only [Runtime.carries, Runtime.selects, hy, hz]
    exact carries
  simp only [StreamView.resynchronise]
  split
  · exact (StreamView.passes_noBufferDrop c v).follows h
  · split <;> split <;> refine flushed _ _ ?_ ?_ rfl rfl rfl rfl <;> rfl

theorem StreamView.arriveOutOfWindow_follows {copy : Copy} (hf : copy.feed ∈ c.entry.feeds) (h : v.rt.follows c.entry) :
    (v.arriveOutOfWindow c copy).rt.follows c.entry := by
  simp only [StreamView.arriveOutOfWindow]
  split
  · exact StreamView.resynchronise_follows hf ((StreamView.Passes.of_fields rfl rfl rfl rfl rfl).follows h)
  · exact (StreamView.Passes.of_fields rfl rfl rfl rfl rfl).follows h

theorem StreamView.arriveFollowing_follows {n : Seq} {copy : Copy} (hf : copy.feed ∈ c.entry.feeds)
    (hs : v.rt.followed) (hn : v.rt.nes = some n) (h : v.rt.follows c.entry) :
    (v.arriveFollowing c n copy).rt.follows c.entry := by
  simp only [StreamView.arriveFollowing]
  split
  · rename_i zero
    exact StreamView.arriveNext_follows hf hs hn ((dist_eq_zero n copy.seq).1 zero) h
  · split
    · exact (StreamView.Passes.of_fields rfl rfl rfl rfl rfl).follows h
    · split
      · exact StreamView.arriveAhead_follows hf hs hn h
      · exact StreamView.arriveOutOfWindow_follows hf h

theorem StreamView.arriveSeeking_follows {copy : Copy} (hf : copy.feed ∈ c.entry.feeds) (h : v.rt.follows c.entry) :
    (v.arriveSeeking c copy).rt.follows c.entry := by
  simp only [StreamView.arriveSeeking]
  split
  · have released := (StreamView.Passes.of_fields (v := v) (w := v.takeBuffer) (c := c) rfl rfl rfl rfl rfl).trans
      (StreamView.passes_release hf false true _)
    exact StreamView.closeArrival_follows (.inl rfl) rfl (released.carries ((Runtime.follows_iff _ _).1 h).2)
  · exact (StreamView.passes_noBufferDrop c v).follows h

theorem StreamView.arriveStarved_follows {n : Seq} {copy : Copy} (hf : copy.feed ∈ c.entry.feeds)
    (h : v.rt.follows c.entry) : (v.arriveStarved c n copy).rt.follows c.entry := by
  simp only [StreamView.arriveStarved]
  split
  · exact StreamView.arriveOutOfWindow_follows hf h
  · split
    · have released := ((StreamView.Passes.of_fields (v := v) (w := v.takeBuffer) (c := c) rfl rfl rfl rfl rfl).trans
        (StreamView.passes_declareLost c copy.seq _)).trans (StreamView.passes_release hf false false _)
      exact StreamView.closeArrival_follows (.inl rfl) rfl (released.carries ((Runtime.follows_iff _ _).1 h).2)
    · exact (StreamView.passes_noBufferDrop c v).follows h

theorem StreamView.arrive_follows {copy : Copy} (hf : copy.feed ∈ c.entry.feeds) (h : v.rt.follows c.entry) :
    (v.arrive c copy).rt.follows c.entry := by
  simp only [StreamView.arrive]
  split
  · exact StreamView.reexamine_follows (StreamView.arriveSeeking_follows hf h)
  · rename_i hs hn
    exact StreamView.reexamine_follows (StreamView.arriveFollowing_follows hf (.inl hs) hn h)
  · rename_i hs hn
    exact StreamView.reexamine_follows (StreamView.arriveFollowing_follows hf (.inr hs) hn h)
  · exact StreamView.reexamine_follows (StreamView.arriveStarved_follows hf h)
  · exact h

theorem StreamView.admitCopy_follows (copy : Copy) (h : v.rt.follows c.entry) :
    (v.admitCopy c copy).rt.follows c.entry := by
  simp only [StreamView.admitCopy]
  split
  · exact (StreamView.Passes.of_fields rfl rfl rfl rfl rfl).follows h
  · rename_i listed
    split
    · exact (StreamView.Passes.of_fields rfl rfl rfl rfl rfl).follows h
    · exact StreamView.arrive_follows (by simpa using listed) h

end Sys2Proof.Machine
end

section
/-! Runtime records follow the live table: deadlines, reviews, resets and the change classes of a swap (R3, R21, R62,
R153, R154). -/

namespace Sys2Proof.Machine

variable {c : StreamCtx} {v w : StreamView}

/-! ### Deadlines -/

/-- A record followed, with its due timer armed, and sound otherwise. -/
theorem Runtime.follows_armed {e : Entry} {r : Runtime} (hs : r.followed) (hn : r.nes.isSome = true)
    (hd : r.due.isSome = true) (hc : r.carries e) : r.follows e :=
  (Runtime.follows_iff _ _).2 ⟨Runtime.shaped_followed hs hn hd, hc⟩

theorem StreamView.expireHeld_follows {x : Moment} {h : Copy} (hs : v.rt.followed) (hv : v.rt.follows c.entry) :
    (v.expireHeld c x h).rt.follows c.entry := by
  obtain ⟨shaped, carries⟩ := (Runtime.follows_iff _ _).1 hv
  have lost := StreamView.passes_declareLost c h.seq v
  have run := lost.trans (StreamView.passes_releaseRun true (v.declareLost c h.seq).rt.hold _ rfl
    fun y hy => carries.2.1 y (lost.hold.subset hy))
  have nes := run.nes.trans (shaped.2.2.1 hs).1
  simp only [StreamView.expireHeld]
  split <;> exact Runtime.follows_armed (.inl rfl) nes rfl (run.carries carries)

theorem StreamView.passes_placeholder (n : Seq) (v : StreamView) : v.Passes c (v.placeholder c n) := by
  simp only [StreamView.placeholder]
  split
  · refine StreamView.Passes.trans ?_ (StreamView.passes_advance c _)
    refine (StreamView.Passes.trans ?_ (StreamView.passes_deliver c _ _)).trans (.of_fields rfl rfl rfl rfl rfl)
    exact .of_fields rfl rfl rfl rfl rfl
  · have lost := (StreamView.passes_noteRefusal c v).trans (StreamView.passes_declareLost c (n + 1) v.noteRefusal)
    exact lost.trans (.of_fields rfl rfl rfl rfl rfl)

theorem StreamView.closeBridging_follows {x : Moment} (hs : v.rt.followed) (hv : v.rt.follows c.entry) :
    (v.closeBridging c x).rt.follows c.entry := by
  obtain ⟨shaped, carries⟩ := (Runtime.follows_iff _ _).1 hv
  rw [StreamView.closeBridging_eq]
  refine Runtime.follows_armed ?_ (shaped.2.2.1 hs).1 rfl carries
  rcases hs with h | h <;> simp [h, Runtime.followed]

theorem StreamView.starve_follows (hs : v.rt.followed) (hh : v.rt.hold = []) (hv : v.rt.follows c.entry) :
    (v.starve c).rt.follows c.entry := by
  obtain ⟨shaped, carries⟩ := (Runtime.follows_iff _ _).1 hv
  refine (Runtime.follows_iff _ _).2 ⟨?_, carries⟩
  simp [Runtime.shaped, StreamView.starve, StreamView.mapRt, StreamView.setLatch, StreamView.raise, hh,
    (shaped.2.2.1 hs).1]

theorem StreamView.expireDue_follows {x : Moment} {n : Seq} (hs : v.rt.followed) (hv : v.rt.follows c.entry) :
    (v.expireDue c x n).rt.follows c.entry := by
  simp only [StreamView.expireDue]
  split
  · exact StreamView.reexamine_follows (StreamView.expireHeld_follows hs hv)
  · split
    · have passes := StreamView.passes_placeholder (c := c) n v
      exact StreamView.closeBridging_follows (passes.followed hs) (passes.follows hv)
    · exact StreamView.starve_follows hs ‹_› hv

/-- A due timer runs in a followed stream only (R21, R47). -/
theorem Runtime.dueTimer_followed {r : Runtime} {x : Moment} {n : Seq} (h : r.dueTimer = some (x, n)) :
    r.followed ∧ r.nes = some n := by
  simp only [Runtime.dueTimer] at h
  split at h
  · cases h; exact ⟨.inl ‹_›, ‹_›⟩
  · cases h; exact ⟨.inr ‹_›, ‹_›⟩
  · cases h

/-! ### Reviews and the hold-off expiry -/

/-- A mapped selector part stands for the same entries, and its rescue run counts as before. -/
theorem Runtime.selects.mapped {e : Entry} {r : Runtime} {g : Selector → Selector} (h : r.selects e)
    (hg : ∀ q, (g q).rescueRun = q.rescueRun ∨ (g q).rescueRun = none) :
    (r.selector.map g = none ↔ e.mode = .first) ∧ ∀ q ∈ r.selector.map g, q.runListed e.feeds := by
  refine ⟨by rw [← h.1]; exact Option.map_eq_none_iff, fun q' hq' => ?_⟩
  obtain ⟨q, hq, rfl⟩ := Option.map_eq_some_iff.1 hq'
  intro k hk
  rcases hg q with e | e <;> rw [e] at hk
  · exact h.runListed q hq k hk
  · exact (Option.not_mem_none k hk).elim

theorem StreamView.passes_evaluate {g : Selector → Selector} (p : SelectionPart)
    (hg : ∀ q, (g q).rescueRun = q.rescueRun ∨ (g q).rescueRun = none) (v : StreamView) :
    v.Passes c ((v.mapSelector g).evaluate c p) := by
  obtain ⟨q, hq⟩ := (v.mapSelector g).evaluate_rt c p
  refine .of_selector hq fun h => ?_
  rw [show ({ v.rt with selector := q } : Runtime) = ((v.mapSelector g).evaluate c p).rt from hq.symm]
  obtain ⟨present, run⟩ := h.mapped hg
  exact StreamView.evaluate_selects p present run

theorem StreamView.review_follows (hv : v.rt.follows c.entry) : (v.review c).rt.follows c.entry := by
  simp only [StreamView.review]
  split
  · exact hv
  · exact StreamView.reexamine_follows ((StreamView.passes_evaluate (g := fun q => { q with reviewPending := false }) _
      (fun _ => .inl rfl) v).follows hv)

theorem StreamView.passes_immediateSwitch {g : Selector → Selector}
    (hg : ∀ q, (g q).rescueRun = q.rescueRun ∨ (g q).rescueRun = none) (v : StreamView) :
    v.Passes c ((v.mapSelector g).immediateSwitch c) := by
  obtain ⟨q, hq⟩ := (v.mapSelector g).immediateSwitch_rt c
  refine .of_selector hq fun h => ?_
  rw [show ({ v.rt with selector := q } : Runtime) = ((v.mapSelector g).immediateSwitch c).rt from hq.symm]
  obtain ⟨present, run⟩ := h.mapped hg
  exact StreamView.immediateSwitch_selects present run

theorem StreamView.expireHoldOff_follows (hv : v.rt.follows c.entry) : (v.expireHoldOff c).rt.follows c.entry :=
  StreamView.reexamine_follows ((StreamView.passes_immediateSwitch
    (g := fun q => { q with reviewPending := false, holdOff := none }) (fun _ => .inl rfl) v).follows hv)

/-! ### A stream put back into SEEKING, initialised, or retuned -/

/-- A record in SEEKING holds nothing but its counters and its selector part (R21, R44). -/
theorem Runtime.follows_seeking {e : Entry} {r : Runtime} (hs : r.mergeState = .seeking) (hn : r.nes = none)
    (hh : r.hold = []) (hd : r.due = none) (hq : r.selects e) : r.follows e := by
  refine (Runtime.follows_iff _ _).2 ⟨?_, by simp [hh], by simp [hh], hq⟩
  simp [Runtime.shaped, hs, hn, hh, hd]

theorem StreamView.flushHold_rt (c : StreamCtx) (v : StreamView) : (v.flushHold c).rt = { v.rt with hold := [] } := by
  simp only [StreamView.flushHold, StreamView.freeBuffers_rt]
  rfl

theorem StreamView.restart_follows (hv : v.rt.follows c.entry) : (v.restart c).rt.follows c.entry := by
  obtain ⟨-, -, -, selects⟩ := (Runtime.follows_iff _ _).1 hv
  obtain ⟨present, run⟩ := selects.mapped
    (g := fun q => { q with holdOff := none, rescueRun := none, reviewPending := false }) fun _ => .inr rfl
  have selector : (v.flushHold c).rt.selector = v.rt.selector := by rw [StreamView.flushHold_rt]
  simp only [StreamView.restart]
  split
  · rename_i first
    refine Runtime.follows_seeking rfl rfl rfl rfl ?_
    have none : v.rt.selector = none := selects.1.2 first
    simp [Runtime.selects, StreamView.mapRt, selector, none, first]
  · rename_i p mode
    split
    · obtain ⟨q, hq⟩ := StreamView.immediateSwitch_rt c ((v.flushHold c).mapRt fun r =>
        { Runtime.disabled r.counters with
          mergeState := .seeking
          selector := r.selector.map fun q => { q with holdOff := none, rescueRun := none, reviewPending := false } })
      refine Runtime.follows_seeking (by rw [hq]; rfl) (by rw [hq]; rfl) (by rw [hq]; rfl) (by rw [hq]; rfl) ?_
      refine StreamView.immediateSwitch_selects ?_ ?_
      · simp only [StreamView.mapRt, selector]; exact present
      · simp only [StreamView.mapRt, selector]; exact run
    · rename_i absent
      have some : v.rt.selector ≠ none := fun e => by rw [selects.1.1 e] at mode; cases mode
      obtain ⟨q, hq⟩ := Option.ne_none_iff_exists'.1 some
      simp [StreamView.mapRt, selector, hq] at absent

theorem StreamCtx.startSelector_selects (c : StreamCtx) (k : StreamCounters) :
    Runtime.selects c.entry { Runtime.disabled k with mergeState := .seeking, selector := c.startSelector } := by
  simp only [Runtime.selects, StreamCtx.startSelector]
  cases hm : c.entry.mode with
  | first => simp
  | preferred p =>
    refine ⟨by simp, fun q hq => ?_⟩
    cases hq
    refine ⟨fun a ha => StreamCtx.best_listed ha, fun k hk => (Option.not_mem_none k hk).elim, ?_⟩
    cases hb : c.best with
    | none => exact ⟨rfl, rfl⟩
    | some f => exact ⟨rfl, rfl⟩

theorem StreamView.initialise_follows (c : StreamCtx) (v : StreamView) : (v.initialise c).rt.follows c.entry :=
  Runtime.follows_seeking rfl rfl rfl rfl (c.startSelector_selects StreamCounters.zero)

theorem Mode.same_first {m m' : Mode} (h : m.same m' = true) : m = .first ↔ m' = .first := by
  cases m <;> cases m' <;> simp [Mode.same] at h ⊢

theorem Mode.same_refl (m : Mode) : m.same m = true := by cases m <;> rfl

/-- A retune to an entry of the same mode trims the hold list to it and re-evaluates the selector part (R154). -/
theorem StreamView.retune_follows {o : Entry} (hm : o.mode.same c.entry.mode = true) (hv : v.rt.follows o) :
    (v.retune c).rt.follows c.entry := by
  obtain ⟨shaped, -, -, present, agrees⟩ := (Runtime.follows_iff _ _).1 hv
  have unheld : v.rt.nes = none → v.rt.hold = [] := by
    intro none
    by_contra hold
    have armed := shaped.2.2.1 (shaped.followed_of_hold hold)
    rw [none] at armed
    cases armed.1
  have limit : (v.rt.trimmed c.entry).length ≤ c.entry.holdLimit := by
    simp only [Runtime.trimmed]
    split
    · exact Nat.zero_le _
    · exact List.length_take_le _ _
  have listed : ∀ h ∈ v.rt.trimmed c.entry, h.feed ∈ c.entry.feeds := by
    intro h hh
    simp only [Runtime.trimmed] at hh
    split at hh
    · exact (List.not_mem_nil hh).elim
    · exact of_decide_eq_true (List.mem_filter.1 (List.mem_of_mem_filter (List.mem_of_mem_take hh))).2
  have shaped' (k : Option Candidate) :
      Runtime.shaped { v.rt with hold := v.rt.trimmed c.entry, candidate := k } := by
    obtain ⟨enabled, seeking, followed, starved⟩ := shaped
    refine ⟨enabled, fun hs => ?_, followed, fun hs => ?_⟩
    · obtain ⟨nes, hold, due⟩ := seeking hs
      exact ⟨nes, by simp [Runtime.trimmed, nes], due⟩
    · obtain ⟨nes, hold, due⟩ := starved hs
      refine ⟨nes, ?_, due⟩
      simp only [Runtime.trimmed, hold, List.filter_nil, List.take_nil]
      split <;> rfl
  have mode : v.rt.selector = none ↔ c.entry.mode = .first := present.trans (Mode.same_first hm)
  rw [StreamView.retune_eq c v unheld]
  cases hf : c.entry.mode with
  | first =>
    have none : v.rt.selector = none := mode.2 hf
    refine (Runtime.follows_iff _ _).2 ⟨?_, ?_, ?_, ?_⟩ <;>
      simp only [StreamView.clearCandidate, StreamView.mapRt, StreamView.freeBuffers_rt]
    · exact shaped' _
    · exact limit
    · exact listed
    · simp [Runtime.selects, none, hf]
  | preferred p =>
    obtain ⟨q, hq⟩ := StreamView.evaluate_rt c p ((StreamView.clearCandidate ((v.mapRt fun r =>
      { r with hold := v.rt.trimmed c.entry }).freeBuffers c
        (v.rt.hold.length - (v.rt.trimmed c.entry).length))).mapSelector fun q =>
          { q with rescueRun := none, reviewPending := false })
    refine StreamView.reexamine_follows ((Runtime.follows_iff _ _).2 ⟨?_, ?_, ?_, ?_⟩)
    · rw [hq]
      simp only [StreamView.clearCandidate, StreamView.mapSelector, StreamView.mapRt, StreamView.freeBuffers_rt]
      exact shaped' none
    · rw [hq]
      simp only [StreamView.clearCandidate, StreamView.mapSelector, StreamView.mapRt, StreamView.freeBuffers_rt]
      exact limit
    · rw [hq]
      simp only [StreamView.clearCandidate, StreamView.mapSelector, StreamView.mapRt, StreamView.freeBuffers_rt]
      exact listed
    · refine StreamView.evaluate_selects p ?_ ?_ <;>
        simp only [StreamView.clearCandidate, StreamView.mapSelector, StreamView.mapRt, StreamView.freeBuffers_rt]
      · rw [← mode]; exact Option.map_eq_none_iff
      · intro q' hq'
        obtain ⟨q, -, rfl⟩ := Option.map_eq_some_iff.1 hq'
        exact fun k hk => (Option.not_mem_none k hk).elim

end Sys2Proof.Machine
end

section
/-! What a property of a slot's record under its live entry must survive, so that every step keeps it of all slots: the events
of streams, and the change classes of a swap (R3, R21, R153). -/

namespace Sys2Proof.Machine

/-! ### A record under its entry -/

/-- What a property `P` of a runtime record under its ENABLED live entry must survive: one field for each event of a
stream, and for the changes of a record made from outside. -/
structure EntryKept (P : Entry → Runtime → Prop) : Prop where
  review : ∀ (c : StreamCtx) (v : StreamView), P c.entry v.rt → P c.entry (v.review c).rt
  holdOff : ∀ (c : StreamCtx) (v : StreamView), P c.entry v.rt → P c.entry (v.expireHoldOff c).rt
  arrival : ∀ (c : StreamCtx) (v : StreamView) copy, P c.entry v.rt → P c.entry (v.admitCopy c copy).rt
  due : ∀ (c : StreamCtx) (v : StreamView) x n, v.rt.followed → v.rt.nes = some n → P c.entry v.rt →
    P c.entry (v.expireDue c x n).rt
  restart : ∀ (c : StreamCtx) (v : StreamView), P c.entry v.rt → P c.entry (v.restart c).rt
  initialise : ∀ (c : StreamCtx) (v : StreamView), P c.entry (v.initialise c).rt
  retune : ∀ (c : StreamCtx) (v : StreamView) (o : Entry), o.mode.same c.entry.mode = true → P o v.rt →
    P c.entry (v.retune c).rt
  mark : ∀ e r, P e r → P e r.mark
  counters : ∀ e (r : Runtime) k, P e r → P e { r with counters := k }

theorem entryKept_follows : EntryKept Runtime.follows where
  review _ _ := StreamView.review_follows
  holdOff _ _ := StreamView.expireHoldOff_follows
  arrival _ _ copy := StreamView.admitCopy_follows copy
  due _ _ _ _ hs _ := StreamView.expireDue_follows hs
  restart _ _ := StreamView.restart_follows
  initialise := StreamView.initialise_follows
  retune _ _ _ hm := StreamView.retune_follows hm
  mark _ _ h := by
    obtain ⟨shaped, limit, listed, selects⟩ := (Runtime.follows_iff _ _).1 h
    exact (Runtime.follows_iff _ _).2 ⟨shaped, limit, listed, Runtime.selects_map selects fun _ agrees => agrees⟩
  counters _ _ _ h := h

/-! ### The records of all slots -/

variable {P : Entry → Runtime → Prop}

/-- A record stands under the ENABLED live entry `x` of its slot, or idle where there is none (R3, R21). -/
def Runtime.standsUnder (P : Entry → Runtime → Prop) (r : Runtime) (x : Option Entry) : Prop :=
  (x = none → r.idle) ∧ ∀ e, x = some e → P e r

theorem Runtime.standsUnder_none {r : Runtime} : r.standsUnder P none ↔ r.idle := by simp [Runtime.standsUnder]

theorem Runtime.standsUnder_some {r : Runtime} {e : Entry} : r.standsUnder P (some e) ↔ P e r := by
  simp [Runtime.standsUnder]

/-- Every record stands under its slot's live entry, with the banks as the table engine's state says. -/
def State.recordsStand (P : Entry → Runtime → Prop) (s : State) : Prop :=
  s.BanksApart ∧ ∀ i, (rd s.runtimes i).standsUnder P (s.enabledEntry i)

theorem State.recordsFollow_iff (s : State) : s.recordsFollow ↔ s.recordsStand Runtime.follows := by
  rw [State.recordsStand, State.banksApart_iff]
  rfl

/-- One slot's event keeps every record standing, if it keeps that slot's. -/
theorem State.standsUnder_onStream {s : State} {i : Slot} {b : Bool} {g : StreamCtx → StreamView → StreamView}
    (h : ∀ j, (rd s.runtimes j).standsUnder P (s.enabledEntry j))
    (hg : ∀ e, P e (rd s.runtimes i) → P e (g (s.streamCtx i e b) (s.streamView i)).rt) (j : Slot) :
    (rd (s.onStream i b g).runtimes j).standsUnder P (s.enabledEntry j) := by
  simp only [State.onStream]
  cases he : s.enabledEntry i with
  | none => exact h j
  | some e =>
    have record : rd (s.putStream i (g (s.streamCtx i e b) (s.streamView i))).runtimes j =
        if j = i then (g (s.streamCtx i e b) (s.streamView i)).rt else rd s.runtimes j := rd_wr _ _ _ _
    dsimp only
    rw [record]
    split
    · rename_i same
      have stands := h i
      rw [he] at stands
      rw [same, he, Runtime.standsUnder_some]
      exact hg e (Runtime.standsUnder_some.1 stands)
    · exact h j

theorem State.recordsStand_onStream {s : State} {i : Slot} {b : Bool} {g : StreamCtx → StreamView → StreamView}
    (hc : StreamChange s (s.onStream i b g)) (h : s.recordsStand P)
    (hg : ∀ e, P e (rd s.runtimes i) → P e (g (s.streamCtx i e b) (s.streamView i)).rt) :
    (s.onStream i b g).recordsStand P := by
  obtain ⟨apart, stand⟩ := h
  refine ⟨State.banksApart_of_stream hc apart, fun j => ?_⟩
  rw [hc.enabledEntry]
  exact State.standsUnder_onStream stand hg j

section Events

variable (K : EntryKept P)
include K

theorem State.recordsStand_selectorReview {s : State} (h : s.recordsStand P) : s.selectorReview.recordsStand P := by
  have change := s.selectorReview_change
  simp only [State.selectorReview] at change ⊢
  split
  · rename_i i next
    simp only [next] at change
    exact State.recordsStand_onStream change h fun e => K.review (s.streamCtx i e false) (s.streamView i)
  · exact h

theorem State.recordsStand_holdOffExpiry {s : State} (i : Slot) (h : s.recordsStand P) :
    (s.holdOffExpiry i).recordsStand P := by
  simp only [State.holdOffExpiry]
  split
  · split
    · exact State.recordsStand_onStream (s.onStream_change i false _ fun c v => v.moves_expireHoldOff c) h
        fun e => K.holdOff (s.streamCtx i e false) (s.streamView i)
    · exact h
  · exact h

theorem State.recordsStand_dueExpiry {s : State} (i : Slot) (h : s.recordsStand P) : (s.dueExpiry i).recordsStand P := by
  simp only [State.dueExpiry]
  split
  · rename_i x n timer
    obtain ⟨followed, next⟩ := Runtime.dueTimer_followed timer
    split
    · exact State.recordsStand_onStream (s.onStream_change i false _ fun c v => v.moves_expireDue c x n) h
        fun e => K.due (s.streamCtx i e false) (s.streamView i) x n followed next
    · exact h
  · exact h

theorem State.recordsStand_copyTake {s : State} (f : Feed) (h : s.recordsStand P) : (s.copyTake f).recordsStand P := by
  rcases s.copyTake_cases f with e | ⟨p, g, k, e⟩ | ⟨p, i, copy, e⟩ <;> rw [e]
  · exact h
  · exact h
  · exact State.recordsStand_onStream (State.onStream_change _ i _ _ fun c v => v.moves_admitCopy c copy) h
      fun e => K.arrival ((s.setPort f p).streamCtx i e false) ((s.setPort f p).streamView i) copy

theorem State.recordsStand_restart {s : State} (i : Slot) (b : Bool) (h : s.recordsStand P) :
    (s.onStream i b fun c v => v.restart c).recordsStand P :=
  State.recordsStand_onStream (s.restartStream_change i b) h
    fun e => K.restart (s.streamCtx i e b) (s.streamView i)

/-! ### Marks, counters and resets -/

/-- A record with other counters stands as before. -/
theorem Runtime.standsUnder_counters {r : Runtime} {x : Option Entry} (k : StreamCounters) (h : r.standsUnder P x) :
    Runtime.standsUnder P { r with counters := k } x := by
  refine ⟨fun none => ?_, fun e he => K.counters e r k (h.2 e he)⟩
  have idle := h.1 none
  rw [idle]
  rfl

theorem Runtime.standsUnder_mark {r : Runtime} {x : Option Entry} (h : r.standsUnder P x) : r.mark.standsUnder P x := by
  refine ⟨fun none => ?_, fun e he => K.mark e r (h.2 e he)⟩
  have idle := h.1 none
  rw [idle]
  rfl

theorem State.recordsStand_feedEvent {s : State} (f : Feed) (h : s.recordsStand P) : (s.feedEvent f).recordsStand P := by
  simp only [State.feedEvent]
  split
  · exact h
  · obtain ⟨apart, stand⟩ := h
    refine ⟨apart, fun i => ?_⟩
    rw [show ∀ x y, State.enabledEntry { s with feedEvents := x, runtimes := y } i = s.enabledEntry i from
      fun _ _ => rfl, rd_tab]
    split
    · exact Runtime.standsUnder_mark K (stand i)
    · exact stand i

theorem State.recordsStand_clearTarget {s t : State} {a b : Byte} (ht : s.clearTarget a b = some t)
    (h : s.recordsStand P) : t.recordsStand P := by
  obtain ⟨rs, ms, io, e, f, l, rfl, hr, -⟩ := State.clearTarget_change ht
  obtain ⟨apart, stand⟩ := h
  refine ⟨apart, fun i => ?_⟩
  obtain ⟨k, hk⟩ := hr i
  change (rd rs i).standsUnder P (s.enabledEntry i)
  rw [hk]
  exact Runtime.standsUnder_counters K k (stand i)

omit K in
/-- With both banks empty and every record DISABLED, the records follow. -/
theorem State.recordsStand_empty {s : State} (he : s.engine = .ready) (hl : s.liveBank = Bank.empty)
    (hb : s.standbyBank = Bank.empty) (hr : ∀ i, rd s.runtimes i = Runtime.disabled StreamCounters.zero) :
    s.recordsStand P := by
  refine ⟨.of_agrees he hl hb rfl, fun i => ?_⟩
  have none : s.enabledEntry i = none := by
    simp only [State.enabledEntry, State.liveEntry, hl, Bank.empty_slots, Option.filter_none]
  rw [none, Runtime.standsUnder_none, hr i]
  rfl

omit K in
theorem State.recordsStand_powerOn (s : State) : s.powerOn.recordsStand P := by
  obtain ⟨engine, live, standby⟩ := s.powerOn_banks
  exact State.recordsStand_empty engine live standby fun i => rd_replicate _ i

omit K in
theorem State.recordsStand_clearPart (s : State) : s.clearPart.recordsStand P := by
  obtain ⟨live, standby, engine, -⟩ := s.clearPart_banks
  obtain ⟨_, _, _, _, _, -, e⟩ := s.clearPart_change
  exact State.recordsStand_empty engine live standby fun i => by rw [e]; exact rd_tab _ i

theorem State.restartStreams_stand {s : State} (h : ∀ i, (rd s.runtimes i).standsUnder P (s.enabledEntry i)) (i : Slot) :
    (rd s.restartStreams.runtimes i).standsUnder P (s.restartStreams.enabledEntry i) := by
  have fold : ∀ (l : List Slot) (u : State), (∀ i, (rd u.runtimes i).standsUnder P (u.enabledEntry i)) →
      ∀ i, (rd (l.foldl (fun t i => t.onStream i true fun c v => v.restart c) u).runtimes i).standsUnder P
        ((l.foldl (fun t i => t.onStream i true fun c v => v.restart c) u).enabledEntry i) := by
    intro l
    induction l with
    | nil => exact fun _ h => h
    | cons j t ih =>
      intro u hu
      refine ih _ fun i => ?_
      rw [(u.restartStream_change j true).enabledEntry]
      exact State.standsUnder_onStream hu (fun e => K.restart (u.streamCtx j e true) (u.streamView j)) i
  exact fold allSlots s h i

/-- After a RESTART every record stands under the entry it had, which the rebuilt standby bank does not change. -/
theorem State.recordsStand_restartPart {s : State} (h : s.recordsStand P) : s.restartPart.recordsStand P := by
  obtain ⟨-, stand⟩ := h
  refine ⟨s.banksApart_restartPart, fun i => ?_⟩
  obtain ⟨t, u, d, _, _, _, -, ht, hu, -, e, -⟩ := s.restartPart_change
  have rebuilt : ∀ j, (rd t.runtimes j).standsUnder P (t.enabledEntry j) := by
    intro j
    obtain ⟨x, y, es⟩ := s.setStandby_change s.liveBank
    have live : t.liveBank = s.liveBank := by rw [ht]; exact s.setStandby_liveBank s.liveBank
    have records : t.runtimes = s.runtimes := by rw [ht, es]
    simp only [State.enabledEntry, State.liveEntry, live, records]
    exact stand j
  rw [e]
  have restarted := State.restartStreams_stand K rebuilt i
  rw [← hu] at restarted
  exact restarted

/-! ### The change classes of a swap (R152, R153) -/

/-- The change class of a slot makes a record that stood under its old entry, or stands under its new one already, stand
under its new one. -/
theorem State.applyClass_stands {s : State} {i : Slot} {old : Option Entry}
    (h : (rd s.runtimes i).standsUnder P (old.filter (·.enabled)) ∨ (rd s.runtimes i).standsUnder P (s.enabledEntry i)) :
    (rd (s.applyClass i old).runtimes i).standsUnder P (s.enabledEntry i) := by
  have initialised (e : Entry) (he : s.enabledEntry i = some e) :
      (rd (s.onStream i true fun c v => v.initialise c).runtimes i).standsUnder P (s.enabledEntry i) := by
    rw [he, Runtime.standsUnder_some]
    simp only [State.onStream, he, State.putStream, rd_wr_self]
    exact K.initialise (s.streamCtx i e true) _
  simp only [State.applyClass]
  cases ho : old.filter (·.enabled) with
  | none =>
    cases he : s.enabledEntry i with
    | none =>
      rw [ho, he, or_self, Runtime.standsUnder_none] at h
      dsimp only
      split
      · exact Runtime.standsUnder_none.2 h
      · rw [Runtime.standsUnder_none, State.setRuntime_runtimes, rd_wr_self, h]
        rfl
    | some e => dsimp only; rw [← he]; exact initialised e he
  | some o =>
    cases he : s.enabledEntry i with
    | none =>
      rw [Runtime.standsUnder_none]
      have record (k : StreamCounters) : rd (s.stopStream i k).runtimes i = Runtime.disabled k := rd_wr_self _ _ _
      dsimp only
      rw [record]
      rfl
    | some e =>
      dsimp only
      split
      · rename_i retunes
        rw [ho, he, Runtime.standsUnder_some, Runtime.standsUnder_some] at h
        rw [Runtime.standsUnder_some]
        simp only [State.onStream, he, State.putStream, rd_wr_self]
        rcases h with follows | follows
        · exact K.retune (s.streamCtx i e true) _ o retunes.2 follows
        · exact K.retune (s.streamCtx i e true) _ e (Mode.same_refl e.mode) follows
      · rw [← he]; exact initialised e he

omit K in
theorem State.onStream_runtime_ne (s : State) (i : Slot) (b : Bool) (g : StreamCtx → StreamView → StreamView) {j : Slot}
    (h : j ≠ i) : rd (s.onStream i b g).runtimes j = rd s.runtimes j := by
  simp only [State.onStream]
  split
  · exact rd_wr_ne _ _ h
  · rfl

omit K in
/-- A change class leaves every other slot's record alone. -/
theorem State.applyClass_runtime_ne (s : State) (i : Slot) (old : Option Entry) {j : Slot} (h : j ≠ i) :
    rd (s.applyClass i old).runtimes j = rd s.runtimes j := by
  simp only [State.applyClass]
  split
  · exact s.onStream_runtime_ne i _ _ h
  · split
    · exact s.onStream_runtime_ne i _ _ h
    · exact s.onStream_runtime_ne i _ _ h
  · exact rd_wr_ne _ _ h
  · split
    · rfl
    · exact rd_wr_ne _ _ h

/-- After the change classes of a list, each slot it touches stands under its new entry, and the others' records are as they
were. -/
theorem State.applyClasses_stand {old : Bank} {cs : List StagedChange} {s : State}
    (h : ∀ i, (rd s.runtimes i).standsUnder P ((rd old.slots i).filter (·.enabled)) ∨
      (rd s.runtimes i).standsUnder P (s.enabledEntry i)) (i : Slot) :
    ((∃ ch ∈ cs, ch.slot = i) ∨ (rd s.runtimes i).standsUnder P (s.enabledEntry i) →
      (rd (s.applyClasses old cs).runtimes i).standsUnder P (s.enabledEntry i)) ∧
    ((¬∃ ch ∈ cs, ch.slot = i) → rd (s.applyClasses old cs).runtimes i = rd s.runtimes i) := by
  induction cs generalizing s with
  | nil => exact ⟨fun h => h.resolve_left (by simp), fun _ => rfl⟩
  | cons ch t ih =>
    have entry := (s.applyClass_change ch.slot (rd old.slots ch.slot)).enabledEntry
    have after : ∀ j, (rd (s.applyClass ch.slot (rd old.slots ch.slot)).runtimes j).standsUnder P
        ((rd old.slots j).filter (·.enabled)) ∨ (rd (s.applyClass ch.slot (rd old.slots ch.slot)).runtimes
          j).standsUnder P ((s.applyClass ch.slot (rd old.slots ch.slot)).enabledEntry j) := by
      intro j
      rw [entry]
      by_cases same : j = ch.slot
      · rw [same]
        exact .inr (State.applyClass_stands K (h ch.slot))
      · rw [s.applyClass_runtime_ne _ _ same]
        exact h j
    obtain ⟨touched, untouched⟩ := ih after
    rw [entry] at touched
    change (_ → (rd ((s.applyClass ch.slot (rd old.slots ch.slot)).applyClasses old t).runtimes i).standsUnder P _) ∧
      (_ → rd ((s.applyClass ch.slot (rd old.slots ch.slot)).applyClasses old t).runtimes i = _)
    by_cases same : i = ch.slot
    · refine ⟨fun _ => touched (.inr ?_), fun other => absurd ⟨ch, List.mem_cons_self .., same.symm⟩ other⟩
      rw [same]
      exact State.applyClass_stands K (h ch.slot)
    · have record := s.applyClass_runtime_ne ch.slot (rd old.slots ch.slot) same
      refine ⟨fun hyp => touched ?_, fun other => (untouched fun ⟨x, hx, e⟩ =>
        other ⟨x, List.mem_cons_of_mem _ hx, e⟩).trans record⟩
      rw [record]
      rcases hyp with ⟨x, hx, e⟩ | stands
      · refine .inl ⟨x, (List.mem_cons.1 hx).resolve_left fun first => same ?_, e⟩
        rw [← e, first]
      · exact .inr stands

theorem State.recordsStand_swap {s : State} (h : s.recordsStand P) : s.swap.recordsStand P := by
  obtain ⟨apart, stand⟩ := h
  refine ⟨State.banksApart_swap apart, fun i => ?_⟩
  rcases s.swap_change with e | ⟨k, t, d, ss, ns, engine, c, ht, -, -, e⟩
  · rw [e]; exact stand i
  · have written : s.standbyBank = s.liveBank.applyChanges k.changes :=
      apart.agrees engine
    have live : ({ s with live := s.live.other } : State).liveBank = s.liveBank.applyChanges k.changes :=
      s.other_liveBank.trans written
    have entry : s.swap.enabledEntry i = ({ s with live := s.live.other } : State).enabledEntry i := by
      rw [e]; exact c.enabledEntry i
    have record : rd s.swap.runtimes i = rd t.runtimes i := by rw [e]
    obtain ⟨touched, -⟩ := State.applyClasses_stand K (old := s.liveBank) (cs := k.changes)
      (s := { s with live := s.live.other }) (fun j => .inl (stand j)) i
    rw [entry, record, ht]
    by_cases hi : ∃ ch ∈ k.changes, ch.slot = i
    · exact touched (.inl hi)
    · refine touched (.inr ?_)
      have same : ({ s with live := s.live.other } : State).enabledEntry i = s.enabledEntry i := by
        simp only [State.enabledEntry, State.liveEntry, live]
        rw [Bank.applyChanges_untouched _ _ _ fun x hx slot => hi ⟨x, hx, slot⟩]
      rw [same]
      exact stand i

/-! ### The invariant -/

omit K in
/-- What leaves the records and the live bank alone, and the banks as the engine's state says, keeps the records standing. -/
theorem State.recordsStand_congr {s t : State} (hr : t.runtimes = s.runtimes) (hl : t.liveBank = s.liveBank)
    (ha : t.BanksApart) (h : s.recordsStand P) : t.recordsStand P := by
  obtain ⟨-, stand⟩ := h
  refine ⟨ha, fun i => ?_⟩
  rw [hr, show t.enabledEntry i = s.enabledEntry i by simp only [State.enabledEntry, State.liveEntry, hl]]
  exact stand i

omit K in
theorem State.recordsStand_prepareComplete {s : State} (h : s.recordsStand P) : s.prepareComplete.recordsStand P := by
  refine State.recordsStand_congr ?_ ?_ (State.banksApart_prepareComplete h.1) h
  · rcases s.prepareComplete_change with e | ⟨c, -, e⟩ <;> rw [e]
    obtain ⟨x, y, es⟩ := s.setStandby_change (s.standbyBank.applyChanges c.changes)
    rw [es]
  · rcases s.prepareComplete_banks with e | ⟨_, -, live, -⟩
    · rw [e]
    · exact live

omit K in
theorem State.recordsStand_syncComplete {s : State} (h : s.recordsStand P) : s.syncComplete.recordsStand P := by
  refine State.recordsStand_congr ?_ ?_ (State.banksApart_syncComplete h.1) h
  · rcases s.syncComplete_change with e | ⟨cs, q, -, e⟩ <;> rw [e]
    obtain ⟨x, y, es⟩ := s.setStandby_change (s.standbyBank.applyChanges cs)
    rw [es]
  · rcases s.syncComplete_banks with e | ⟨_, _, -, live, -⟩
    · rw [e]
    · exact live

theorem kept_recordsStand : Kept (State.recordsStand P) :=
  { FeedsKept.of_change (I := State.recordsStand P) (by rintro s _ ⟨_, _, _, _, _, rfl⟩ h; exact h),
    ManagementKept.of_change (I := State.recordsStand P) (fun _ _ _ _ _ _ _ h => h) with
    review := fun _ h => State.recordsStand_selectorReview K h
    holdOff := fun _ i h => State.recordsStand_holdOffExpiry K i h
    take := fun _ f h => State.recordsStand_copyTake K f h
    due := fun _ i h => State.recordsStand_dueExpiry K i h
    restartStream := fun _ i h => State.recordsStand_restart K i false h
    por := fun s _ _ => s.recordsStand_powerOn
    feedEvent := fun _ f h => State.recordsStand_feedEvent K f h
    deliveryDown := fun s _ h => by obtain ⟨_, _, _, _, e⟩ := s.deliveryLinkDown_change; rw [e]; exact h
    start := fun s _ h => by obtain ⟨_, _, e⟩ := s.transmissionStart_change; rw [e]; exact h
    complete := fun s h => by obtain ⟨_, _, e⟩ := s.transmissionComplete_change; rw [e]; exact h
    clearTarget := fun _ _ _ _ ht h => State.recordsStand_clearTarget K ht h
    acknowledge := fun _ _ h => h
    restart := fun _ _ h => State.recordsStand_restartPart K h
    clear := fun s _ _ => s.recordsStand_clearPart
    commit := fun c s hb _ h => State.recordsStand_congr (s := s) rfl rfl (State.banksApart_acceptCommit c hb h.1) h
    prepare := fun _ h => State.recordsStand_prepareComplete h
    swap := fun _ _ h => State.recordsStand_swap K h
    sync := fun _ h => State.recordsStand_syncComplete h }

end Events

/-- Settles O13: each event of a stream leaves a record that follows its entry, and at a swap each touched slot's change
class makes its record follow the new one, while the untouched slots keep theirs. -/
theorem recordsFollowTheLiveTable : Obligations.RecordsFollowTheLiveTable := by
  intro s t h he
  rw [State.recordsFollow_iff] at h ⊢
  exact (kept_recordsStand entryKept_follows).step (fun _ h => h) (fun _ _ h => h) s t h he

end Sys2Proof.Machine
end

section
/-! Hold lists stay in order: their distances from NES rise within the window, and a copy of NES stays held only while its
feed is not the active one (R22, R30 to R37, R74, R154). -/

namespace Sys2Proof.Machine

/-! ### Distances (R1) -/

theorem dist_succ {n s : Seq} (h : s ≠ n) : dist (n + 1) s + 1 = dist n s := by
  unfold dist; bv_omega

theorem dist_shift {n m s : Seq} (h : dist n m ≤ dist n s) : dist m s + dist n m = dist n s := by
  unfold dist at *; bv_omega

theorem dist_self (n : Seq) : dist n n = 0 := (dist_eq_zero n n).2 rfl

theorem dist_inj {n s t : Seq} (h : dist n s = dist n t) : s = t := by
  unfold dist at h; bv_omega

/-! ### Ordered hold lists -/

section Lists

variable {w : Nat} {n m : Seq} {hold : List Copy}

theorem holdOrdered_cons {x : Copy} {t : List Copy} : holdOrdered w n (x :: t) ↔
    (∀ y ∈ t, dist n x.seq < dist n y.seq) ∧ dist n x.seq ≤ w ∧ holdOrdered w n t := by
  simp only [holdOrdered, List.map_cons, List.pairwise_cons, List.forall_mem_cons, List.forall_mem_map]
  tauto

theorem holdOrdered_nil : holdOrdered w n [] := ⟨List.Pairwise.nil, fun _ h => (List.not_mem_nil h).elim⟩

/-- The order is the same from any sequence up to the head (R28). -/
theorem holdOrdered_shift (h : holdOrdered w n hold) (hm : ∀ x ∈ hold.head?, dist n m ≤ dist n x.seq) :
    holdOrdered w m hold := by
  have near : ∀ x ∈ hold, dist m x.seq + dist n m = dist n x.seq := by
    cases hold with
    | nil => exact fun _ hx => (List.not_mem_nil hx).elim
    | cons y t =>
      obtain ⟨above, -, -⟩ := holdOrdered_cons.1 h
      intro x hx
      have first := hm y rfl
      refine dist_shift ?_
      rcases List.mem_cons.1 hx with rfl | hx
      · exact first
      · exact first.trans (above x hx).le
  obtain ⟨rising, within⟩ := h
  rw [List.pairwise_map] at rising
  refine ⟨List.pairwise_map.2 (rising.imp_of_mem fun {a b} ha hb lt => ?_), fun x hx => ?_⟩
  · have := near a ha
    have := near b hb
    omega
  · have := near x hx
    have := within x hx
    omega

theorem holdOrdered_sublist {hold' : List Copy} (h : holdOrdered w n hold) (hs : hold'.Sublist hold) :
    holdOrdered w n hold' :=
  ⟨h.1.sublist (hs.map _), fun x hx => h.2 x (hs.subset hx)⟩

/-- The order says nothing of a copy but its sequence. -/
theorem holdOrdered_of_seqs {hold' : List Copy} (h : holdOrdered w n hold)
    (hs : hold'.map (·.seq) = hold.map (·.seq)) : holdOrdered w n hold' := by
  have dists (l : List Copy) : l.map (fun h => dist n h.seq) = (l.map (·.seq)).map (dist n) := by simp
  obtain ⟨rising, within⟩ := h
  refine ⟨?_, fun x hx => ?_⟩
  · rw [dists, hs, ← dists]; exact rising
  · have : x.seq ∈ hold.map (·.seq) := hs ▸ List.mem_map_of_mem hx
    obtain ⟨y, hy, e⟩ := List.mem_map.1 this
    rw [← e]; exact within y hy

/-- Past a head that is not NES, no copy of NES is held. -/
theorem holdOrdered_ahead (h : holdOrdered w n hold) (hh : ∀ x ∈ hold.head?, x.seq ≠ n) : ∀ x ∈ hold, x.seq ≠ n := by
  cases hold with
  | nil => exact fun _ hx => (List.not_mem_nil hx).elim
  | cons y t =>
    obtain ⟨above, -, -⟩ := holdOrdered_cons.1 h
    intro x hx
    rcases List.mem_cons.1 hx with rfl | hx
    · exact hh x rfl
    · rintro rfl
      have := above x hx
      rw [dist_self] at this
      omega

/-- Behind a head, no copy of NES is held. -/
theorem holdOrdered_tail_ahead {x : Copy} {t : List Copy} (h : holdOrdered w n (x :: t)) : ∀ y ∈ t, y.seq ≠ n := by
  obtain ⟨above, -, -⟩ := holdOrdered_cons.1 h
  rintro y hy rfl
  have := above y hy
  rw [dist_self] at this
  omega

/-- Where no copy of NES is held, NES may be passed (R1). -/
theorem holdOrdered_advance (h : holdOrdered w n hold) (hx : ∀ x ∈ hold, x.seq ≠ n) : holdOrdered w (n + 1) hold := by
  refine holdOrdered_shift h fun x hh => ?_
  have := dist_succ (hx x (List.mem_of_mem_head? hh))
  have : dist n (n + 1) ≤ 1 := by unfold dist; bv_omega
  omega

theorem insertHold_ordered {copy : Copy} (h : holdOrdered w n hold) (hc : dist n copy.seq ≤ w)
    (hx : ∀ x ∈ hold, x.seq ≠ copy.seq) : holdOrdered w n (insertHold n copy hold) := by
  induction hold with
  | nil => exact holdOrdered_cons.2 ⟨fun _ hy => (List.not_mem_nil hy).elim, hc, holdOrdered_nil⟩
  | cons x t ih =>
    obtain ⟨above, near, rest⟩ := holdOrdered_cons.1 h
    simp only [insertHold]
    split
    · rename_i before
      refine holdOrdered_cons.2 ⟨fun y hy => ?_, hc, h⟩
      rcases List.mem_cons.1 hy with rfl | hy
      · exact before
      · exact before.trans (above y hy)
    · rename_i behind
      refine holdOrdered_cons.2 ⟨fun y hy => ?_, near, ih rest fun y hy => hx y (List.mem_cons_of_mem _ hy)⟩
      rcases insertHold_mem.1 hy with rfl | hy
      · have : dist n x.seq ≠ dist n y.seq := fun e => hx x (List.mem_cons_self ..) (dist_inj e)
        omega
      · exact above y hy

theorem insertHold_head? (n : Seq) (copy : Copy) (hold : List Copy) :
    (insertHold n copy hold).head? = some copy ∨ (insertHold n copy hold).head? = hold.head? := by
  cases hold with
  | nil => exact .inl rfl
  | cons x t =>
    simp only [insertHold]
    split
    · exact .inl rfl
    · exact .inr rfl

end Lists

/-! ### The order of a record's hold list -/

/-- The hold list is ordered within a window from NES (R22). -/
def Runtime.ranked (w : Nat) (r : Runtime) : Prop := ∀ n, r.nes = some n → holdOrdered w n r.hold

/-- The head is not a deliverable copy of NES: a release run would stop at it (R31). -/
def Runtime.rested (e : Entry) (r : Runtime) : Prop :=
  ∀ n, r.nes = some n → ∀ h ∈ r.hold.head?, h.seq = n → ¬deliverableFrom e r h.feed

/-- What R22 says of the hold list of a record under its live entry. -/
def Runtime.ordered (e : Entry) (r : Runtime) : Prop :=
  ∀ n, r.nes = some n → holdOrdered e.window n r.hold ∧ ∀ h ∈ r.hold, h.seq = n → ¬deliverableFrom e r h.feed

/-- In an ordered list only the head can be a copy of NES. -/
theorem Runtime.ordered_iff (e : Entry) (r : Runtime) : r.ordered e ↔ r.ranked e.window ∧ r.rested e := by
  constructor
  · intro h
    exact ⟨fun n hn => (h n hn).1, fun n hn x hx => (h n hn).2 x (List.mem_of_mem_head? hx)⟩
  · rintro ⟨ranked, rested⟩ n hn
    refine ⟨ranked n hn, fun x hx same => ?_⟩
    have order := ranked n hn
    have head := rested n hn
    cases hh : r.hold with
    | nil => rw [hh] at hx; exact (List.not_mem_nil hx).elim
    | cons y t =>
      rw [hh] at hx order head
      rcases List.mem_cons.1 hx with rfl | hx
      · exact head x rfl same
      · exact absurd same (holdOrdered_tail_ahead order x hx)

theorem Runtime.ordered_of_empty {e : Entry} {r : Runtime} (h : r.hold = []) : r.ordered e := by
  intro n _
  rw [h]
  exact ⟨holdOrdered_nil, fun _ hx => (List.not_mem_nil hx).elim⟩

theorem Runtime.ordered_of_absent {e : Entry} {r : Runtime} (h : r.nes = none) : r.ordered e := by
  intro n hn
  rw [h] at hn
  cases hn

theorem Runtime.ordered_congr {e : Entry} {r r' : Runtime} (hn : r'.nes = r.nes) (hh : r'.hold = r.hold)
    (ha : r'.active = r.active) (h : r.ordered e) : r'.ordered e := by
  intro n hn'
  rw [hn] at hn'
  simp only [hh, deliverableFrom, ha]
  exact h n hn'

/-! ### Within an event -/

variable {c : StreamCtx} {v w u : StreamView}

/-- Within an event the hold list is ordered, and a deliverable copy of NES stands at its head only after a switch, which the
event's end re-examines (R74). -/
structure StreamView.Tidy (c : StreamCtx) (v : StreamView) : Prop where
  ranked : v.rt.ranked c.entry.window
  rested : v.switched = true ∨ v.rt.rested c.entry

theorem StreamView.Tidy.of_ordered (h : v.rt.ordered c.entry) : v.Tidy c :=
  have ⟨ranked, rested⟩ := (Runtime.ordered_iff _ _).1 h
  ⟨ranked, .inr rested⟩

/-- NES and the hold list stay, and the active feed with them unless the event has made a switch. -/
structure StreamView.Keeps (v w : StreamView) : Prop where
  nes : w.rt.nes = v.rt.nes
  hold : w.rt.hold = v.rt.hold
  active : w.switched = true ∨ (w.rt.active = v.rt.active ∧ w.switched = v.switched)

theorem StreamView.Keeps.refl (v : StreamView) : v.Keeps v := ⟨rfl, rfl, .inr ⟨rfl, rfl⟩⟩

theorem StreamView.Keeps.trans (h : v.Keeps w) (g : w.Keeps u) : v.Keeps u := by
  refine ⟨g.nes.trans h.nes, g.hold.trans h.hold, ?_⟩
  rcases g.active with switched | ⟨active, switched⟩
  · exact .inl switched
  · rw [switched, active]; exact h.active

theorem StreamView.Keeps.of_fields (hn : w.rt.nes = v.rt.nes) (hh : w.rt.hold = v.rt.hold)
    (ha : w.rt.active = v.rt.active) (hs : w.switched = v.switched) : v.Keeps w := ⟨hn, hh, .inr ⟨ha, hs⟩⟩

theorem StreamView.Keeps.ranked (h : v.Keeps w) {k : Nat} (hr : v.rt.ranked k) : w.rt.ranked k := by
  intro n hn
  rw [h.hold]
  exact hr n (h.nes ▸ hn)

theorem StreamView.Keeps.tidy (h : v.Keeps w) (ht : v.Tidy c) : w.Tidy c := by
  refine ⟨h.ranked ht.ranked, ?_⟩
  rcases h.active with switched | ⟨active, switched⟩
  · exact .inl switched
  · rw [switched]
    refine ht.rested.imp_right fun rested n hn => ?_
    simp only [h.hold, deliverableFrom, active]
    exact rested n (h.nes ▸ hn)

/-- A change of the record's other fields. -/
theorem StreamView.Tidy.of_fields (h : v.Tidy c) (hn : w.rt.nes = v.rt.nes) (hh : w.rt.hold = v.rt.hold)
    (ha : w.rt.active = v.rt.active) (hs : w.switched = v.switched) : w.Tidy c :=
  (StreamView.Keeps.of_fields hn hh ha hs).tidy h

theorem StreamView.keeps_freeBuffers (c : StreamCtx) (n : Nat) (v : StreamView) : v.Keeps (v.freeBuffers c n) := by
  simp only [StreamView.freeBuffers]
  split
  · exact .refl v
  · split <;> exact .of_fields rfl rfl rfl rfl

theorem StreamView.keeps_deliver (c : StreamCtx) (f : Frame) (v : StreamView) : v.Keeps (v.deliver c f) := by
  simp only [StreamView.deliver]
  split
  · exact .of_fields rfl rfl rfl rfl
  · refine StreamView.Keeps.trans ?_ (StreamView.keeps_freeBuffers c 1 _)
    exact .of_fields rfl rfl rfl rfl

theorem StreamView.keeps_noBufferDrop (v : StreamView) : v.Keeps v.noBufferDrop := .of_fields rfl rfl rfl rfl

theorem Runtime.active_map {r : Runtime} {g : Selector → Selector} (h : ∀ q, (g q).active = q.active) :
    Runtime.active { r with selector := r.selector.map g } = r.active := by
  simp only [Runtime.active]
  cases r.selector with
  | none => rfl
  | some q => exact h q

theorem StreamView.keeps_setActive (c : StreamCtx) (dest : Option Feed) (st : SelectorState) (timer : Option Moment)
    (v : StreamView) : v.Keeps (v.setActive c dest st timer) := by
  simp only [StreamView.setActive]
  split
  · exact .of_fields rfl rfl (Runtime.active_map fun _ => rfl) rfl
  · exact ⟨rfl, rfl, .inl rfl⟩

theorem StreamView.keeps_immediateSwitch (c : StreamCtx) (v : StreamView) : v.Keeps (v.immediateSwitch c) := by
  simp only [StreamView.immediateSwitch]
  split <;> exact StreamView.keeps_setActive ..

theorem StreamView.keeps_evaluate (c : StreamCtx) (p : SelectionPart) (v : StreamView) : v.Keeps (v.evaluate c p) := by
  simp only [StreamView.evaluate]
  split
  · exact .refl v
  · split
    · exact v.keeps_immediateSwitch c
    · split
      · exact v.keeps_immediateSwitch c
      · exact StreamView.keeps_setActive ..

theorem StreamView.keeps_reportRescue (c : StreamCtx) (g : Feed) (v : StreamView) : v.Keeps (v.reportRescue c g) := by
  simp only [StreamView.reportRescue]
  split
  · split
    · exact .refl v
    · split
      · exact StreamView.keeps_setActive ..
      · exact .of_fields rfl rfl (Runtime.active_map fun _ => rfl) rfl
  · exact .refl v

theorem StreamView.keeps_release (c : StreamCtx) (copy : Copy) (resync seek : Bool) (v : StreamView) :
    v.Keeps (v.release c copy resync seek) := by
  have cleared (x : StreamView) : x.Keeps (x.mapSelector fun q => { q with rescueRun := none }) :=
    .of_fields rfl rfl (Runtime.active_map fun _ => rfl) rfl
  simp only [StreamView.release]
  split
  · refine (StreamView.Keeps.trans ?_ (StreamView.keeps_deliver c _ _)).trans (StreamView.keeps_reportRescue c _ _)
    exact .of_fields rfl rfl rfl rfl
  · refine (StreamView.Keeps.trans ?_ (StreamView.keeps_deliver c _ _)).trans (cleared _)
    exact .of_fields rfl rfl rfl rfl

theorem StreamView.keeps_closeArrival (c : StreamCtx) (v : StreamView) : v.Keeps (v.closeArrival c) := by
  rw [StreamView.closeArrival_eq]
  exact .of_fields rfl rfl rfl rfl

/-- A release with NES passing it, where the hold list stands ahead of NES. -/
theorem StreamView.released_ranked {copy : Copy} {rest : List Copy} {k : Nat} {n : Seq} (hn : w.rt.nes = some n)
    (hh : w.rt.hold = rest) (ho : holdOrdered k n rest) (hx : ∀ x ∈ rest, x.seq ≠ n) :
    ((w.release c copy false false).advance).rt.nes = some (n + 1) ∧
      ((w.release c copy false false).advance).rt.hold = rest ∧
      ((w.release c copy false false).advance).rt.ranked k := by
  have keeps := StreamView.keeps_release c copy false false w
  have nes : ((w.release c copy false false).advance).rt.nes = some (n + 1) := by
    simp [StreamView.advance, StreamView.mapRt, keeps.nes, hn]
  have hold : ((w.release c copy false false).advance).rt.hold = rest := keeps.hold.trans hh
  refine ⟨nes, hold, fun m hm => ?_⟩
  rw [nes] at hm
  cases hm
  rw [hold]
  exact holdOrdered_advance ho hx

/-- The release run leaves the list ordered, with no deliverable copy of NES at its head (R31). -/
theorem StreamView.releaseRun_ordered (any : Bool) (l : List Copy) (v : StreamView) (hv : v.rt.hold = l)
    (hr : v.rt.ranked c.entry.window) : (v.releaseRun c any l).rt.ordered c.entry := by
  induction l generalizing v with
  | nil => exact Runtime.ordered_of_empty hv
  | cons h rest ih =>
    simp only [StreamView.releaseRun]
    split
    · rename_i go
      obtain ⟨nes, -⟩ := go
      have order := hr h.seq nes
      rw [hv] at order
      obtain ⟨-, hold, ranked⟩ := StreamView.released_ranked (c := c) (copy := h)
        (w := v.mapRt fun r => { r with hold := rest }) nes rfl (holdOrdered_cons.1 order).2.2
        (holdOrdered_tail_ahead order)
      exact ih _ hold ranked
    · rename_i stop
      refine (Runtime.ordered_iff _ _).2 ⟨hr, fun n hn x hx same deliverable => stop ⟨?_, .inr ?_⟩⟩
      · rw [hv] at hx
        cases hx
        rw [hn, same]
      · rw [hv] at hx
        cases hx
        exact (StreamView.deliverable_iff c v h.feed).2 deliverable

/-- A sequence that is not held stays within the window, and unheld, as the run passes (R36). -/
theorem StreamView.releaseRun_near {k : Nat} {q : Seq} (any : Bool) (l : List Copy) (v : StreamView) (hv : v.rt.hold = l)
    (hn : ∀ n, v.rt.nes = some n → dist n q ≤ k) (hl : ∀ h ∈ l, h.seq ≠ q) :
    (∀ n, (v.releaseRun c any l).rt.nes = some n → dist n q ≤ k) ∧ ∀ h ∈ (v.releaseRun c any l).rt.hold, h.seq ≠ q := by
  induction l generalizing v with
  | nil => exact ⟨hn, by rw [show v.releaseRun c any [] = v from rfl, hv]; exact hl⟩
  | cons h rest ih =>
    simp only [StreamView.releaseRun]
    split
    · rename_i go
      obtain ⟨nes, -⟩ := go
      have keeps := StreamView.keeps_release c h false false (v.mapRt fun r => { r with hold := rest })
      refine ih _ keeps.hold (fun n hn' => ?_) fun x hx => hl x (List.mem_cons_of_mem _ hx)
      have next : (((v.mapRt fun r => { r with hold := rest }).release c h false false).advance).rt.nes =
          some (h.seq + 1) := by
        rw [StreamView.advance, StreamView.mapRt, keeps.nes]
        exact congrArg (Option.map (· + 1)) nes
      rw [next] at hn'
      cases hn'
      have near := hn h.seq nes
      have := dist_succ (hl h (List.mem_cons_self ..)).symm
      omega
    · exact ⟨hn, by rw [hv]; exact hl⟩

/-! ### The end of an event -/

/-- The re-examination leaves an ordered hold list (R74). -/
theorem StreamView.Tidy.reexamine (h : v.Tidy c) : (v.reexamine c).rt.ordered c.entry := by
  cases hh : v.rt.hold with
  | nil => rw [StreamView.reexamine_empty c v hh]; exact Runtime.ordered_of_empty hh
  | cons x rest =>
    simp only [StreamView.reexamine, hh]
    split
    · have run := StreamView.releaseRun_ordered (c := c) false (x :: rest) v hh h.ranked
      have keeps := StreamView.keeps_closeArrival c (v.releaseRun c false (x :: rest))
      obtain ⟨ranked, rested⟩ := (Runtime.ordered_iff _ _).1 run
      refine Runtime.ordered_congr keeps.nes keeps.hold ?_ run
      rw [StreamView.closeArrival_eq]
      rfl
    · rename_i stays
      refine (Runtime.ordered_iff _ _).2 ⟨h.ranked, ?_⟩
      rcases h.rested with switched | rested
      · intro n hn y hy same deliverable
        rw [hh] at hy
        cases hy
        exact stays ⟨switched, by rw [hn, same], (StreamView.deliverable_iff c v _).2 deliverable⟩
      · exact rested

/-! ### Arrivals -/

theorem StreamView.Tidy.closeIfReleased (h : v.Tidy c) : (v.closeIfReleased c).Tidy c := by
  simp only [StreamView.closeIfReleased]
  split
  · exact (v.keeps_closeArrival c).tidy h
  · exact h

/-- The copy of NES released, where the hold list stands ahead of it (R30). -/
theorem StreamView.Tidy.releaseNext {copy : Copy} (h : v.Tidy c) (hn : v.rt.nes = some copy.seq)
    (hx : ∀ x ∈ v.rt.hold, x.seq ≠ copy.seq) : (v.releaseNext c copy).Tidy c := by
  simp only [StreamView.releaseNext]
  split
  · obtain ⟨-, -, ranked⟩ := StreamView.released_ranked (c := c) (copy := copy) (w := v.takeBuffer)
      (k := c.entry.window) hn rfl (h.ranked _ hn) hx
    exact .of_ordered (StreamView.releaseRun_ordered false _ _ rfl ranked)
  · exact v.keeps_noBufferDrop.tidy h

/-- A copy held in its place, or dropped on a refused claim (R33, R35). -/
theorem StreamView.Tidy.hold {n : Seq} {copy : Copy} (h : v.Tidy c) (hn : v.rt.nes = some n)
    (hc : dist n copy.seq ≤ c.entry.window) (hx : ∀ x ∈ v.rt.hold, x.seq ≠ copy.seq)
    (hd : copy.seq = n → ¬deliverableFrom c.entry v.rt copy.feed) : (v.hold n copy).Tidy c := by
  simp only [StreamView.hold]
  split
  · refine ⟨fun m hm => ?_, h.rested.imp_right fun rested m hm x hh same => ?_⟩
    · have : n = m := Option.some.inj (hn.symm.trans hm)
      subst this
      exact insertHold_ordered (h.ranked n hn) hc hx
    · have : n = m := Option.some.inj (hn.symm.trans hm)
      subst this
      rcases insertHold_head? n copy v.rt.hold with e | e
      · rw [show x = copy from Option.some.inj (hh.symm.trans e)] at same ⊢
        exact hd same
      · exact rested n hn x (e ▸ hh) same
  · exact v.keeps_noBufferDrop.tidy h

theorem StreamView.declareLost_keeps {n m : Seq} (hn : v.rt.nes = some n) :
    (v.declareLost c m).rt.hold = v.rt.hold ∧ (v.declareLost c m).rt.active = v.rt.active := by
  by_cases same : n = m
  · rw [← same, StreamView.declareLost_self c v n hn]; exact ⟨rfl, rfl⟩
  · rw [StreamView.declareLost_eq c v n m hn same]; exact ⟨rfl, rfl⟩

theorem StreamView.Tidy.reconsider {n : Seq} {copy : Copy} (h : v.Tidy c) (hn : v.rt.nes = some n)
    (hc : dist n copy.seq ≤ c.entry.window) (hx : ∀ x ∈ v.rt.hold, x.seq ≠ copy.seq) : (v.reconsider c copy).Tidy c := by
  simp only [StreamView.reconsider, hn]
  split
  · rename_i next
    split
    · exact h.releaseNext (by rw [hn, next]) hx
    · rename_i stays
      refine h.hold hn hc hx fun _ deliverable => stays (.inl ?_)
      exact (StreamView.deliverable_iff c v _).2 deliverable
  · rename_i early
    exact h.hold hn hc hx fun same => absurd same early

/-- A pressure release declares lost up to the nearer of the copy and the head (R36). -/
theorem StreamView.Tidy.pressureRelease {n : Seq} {copy : Copy} (h : v.Tidy c) (hn : v.rt.nes = some n)
    (hc : dist n copy.seq ≤ c.entry.window) (hx : ∀ x ∈ v.rt.hold, x.seq ≠ copy.seq) :
    (v.pressureRelease c n copy).Tidy c := by
  have order := h.ranked n hn
  obtain ⟨hold, -⟩ := StreamView.declareLost_keeps (c := c) (m := pressureMark n copy v.rt.hold) hn
  have nes := StreamView.declareLost_nes (c := c) (pressureMark n copy v.rt.hold) hn
  have mark : dist n (pressureMark n copy v.rt.hold) ≤ dist n copy.seq ∧
      ∀ x ∈ v.rt.hold.head?, dist n (pressureMark n copy v.rt.hold) ≤ dist n x.seq := by
    cases v.rt.hold with
    | nil => exact ⟨le_refl _, fun _ hx => (Option.not_mem_none _ hx).elim⟩
    | cons x t =>
      simp only [pressureMark]
      split
      · exact ⟨by omega, fun y hy => by cases hy; exact le_refl _⟩
      · exact ⟨le_refl _, fun y hy => by cases hy; omega⟩
  obtain ⟨toCopy, toHead⟩ := mark
  simp only [StreamView.pressureRelease, hold]
  have ranked : (v.declareLost c (pressureMark n copy v.rt.hold)).rt.ranked c.entry.window := by
    intro m hm
    rw [nes] at hm
    cases hm
    rw [hold]
    exact holdOrdered_shift order toHead
  have run := StreamView.releaseRun_ordered (c := c) true v.rt.hold _ hold ranked
  obtain ⟨near, unheld⟩ := StreamView.releaseRun_near (c := c) (k := c.entry.window) (q := copy.seq) true v.rt.hold _ hold
    (fun m hm => by
      rw [nes] at hm
      cases hm
      have := dist_shift toCopy
      omega) hx
  refine StreamView.Tidy.closeIfReleased ?_
  cases hm : ((v.declareLost c (pressureMark n copy v.rt.hold)).releaseRun c true v.rt.hold).rt.nes with
  | none => simp only [StreamView.reconsider, hm]; exact .of_ordered run
  | some m => exact (StreamView.Tidy.of_ordered run).reconsider hm (near m hm) unheld

theorem headIsFallback_iff (n : Seq) (hold : List Copy) : headIsFallback n hold = true ↔ ∃ x ∈ hold.head?, x.seq = n := by
  cases hold <;> simp [headIsFallback]

/-- With a fallback discarded the hold list stands ahead of NES (R30). -/
theorem StreamView.Tidy.discardFallback {n : Seq} (h : v.Tidy c) (hn : v.rt.nes = some n) :
    (v.discardFallback c n).Tidy c ∧ (v.discardFallback c n).rt.nes = some n ∧
      ∀ x ∈ (v.discardFallback c n).rt.hold, x.seq ≠ n := by
  have order := h.ranked n hn
  simp only [StreamView.discardFallback]
  split
  · have ahead : ∀ x ∈ v.rt.hold.tail, x.seq ≠ n := by
      cases hh : v.rt.hold with
      | nil => exact fun _ hx => (List.not_mem_nil hx).elim
      | cons y t => rw [hh] at order; exact holdOrdered_tail_ahead order
    have tidy : (v.mapRt fun r => { r with hold := r.hold.tail }).Tidy c := by
      refine ⟨fun m hm => ?_, .inr fun m hm x hx same => ?_⟩
      · exact holdOrdered_sublist (h.ranked m hm) (List.tail_sublist _)
      · have : n = m := Option.some.inj (hn.symm.trans hm)
        subst this
        exact absurd same (ahead x (List.mem_of_mem_head? hx))
    have keeps := StreamView.keeps_freeBuffers c 1 (v.mapRt fun r => { r with hold := r.hold.tail })
    exact ⟨keeps.tidy tidy, keeps.nes.trans hn, by rw [keeps.hold]; exact ahead⟩
  · rename_i none
    refine ⟨h, hn, holdOrdered_ahead order fun x hx same => none ?_⟩
    exact (headIsFallback_iff n _).2 ⟨x, hx, same⟩

theorem StreamView.Tidy.arriveNext {n : Seq} {copy : Copy} (h : v.Tidy c) (hn : v.rt.nes = some n) (hc : copy.seq = n) :
    (v.arriveNext c n copy).Tidy c := by
  subst hc
  simp only [StreamView.arriveNext]
  split
  · obtain ⟨tidy, nes, ahead⟩ := h.discardFallback hn
    exact (tidy.releaseNext nes ahead).closeIfReleased
  · rename_i standby
    split
    · exact h.of_fields rfl rfl rfl rfl
    · rename_i none
      have ahead : ∀ x ∈ v.rt.hold, x.seq ≠ copy.seq := holdOrdered_ahead (h.ranked _ hn) fun x hx same =>
        none ((headIsFallback_iff _ _).2 ⟨x, hx, same⟩)
      have near : dist copy.seq copy.seq ≤ c.entry.window := by rw [dist_self]; exact Nat.zero_le _
      split
      · exact h.hold hn near ahead fun _ deliverable =>
          standby ((StreamView.deliverable_iff c v _).2 deliverable)
      · exact h.pressureRelease hn near ahead

/-- A replaced copy leaves the sequences of the hold list as they were (R34). -/
theorem replaceHeld_seqs (copy : Copy) (hold : List Copy) : (replaceHeld copy hold).map (·.seq) = hold.map (·.seq) := by
  simp only [replaceHeld, List.map_map]
  refine List.map_congr_left fun x _ => ?_
  simp only [Function.comp]
  split
  · exact Eq.symm ‹_›
  · rfl

theorem StreamView.Tidy.replace {n : Seq} {copy : Copy} (h : v.Tidy c) (hn : v.rt.nes = some n) (hc : copy.seq ≠ n) :
    (v.mapRt fun r => { r with hold := replaceHeld copy r.hold }).Tidy c := by
  refine ⟨fun m hm => holdOrdered_of_seqs (h.ranked m hm) (replaceHeld_seqs copy v.rt.hold),
    h.rested.imp_right fun rested m hm x hx same => ?_⟩
  have : n = m := Option.some.inj (hn.symm.trans hm)
  subst this
  have head : (replaceHeld copy v.rt.hold).head? = v.rt.hold.head?.map fun h => if h.seq = copy.seq then copy else h :=
    List.head?_map
  obtain ⟨y, hy, e⟩ := Option.map_eq_some_iff.1 (head.symm.trans hx)
  split at e
  · rw [← e] at same; exact absurd same hc
  · rw [← e] at same ⊢; exact rested n hn y hy same

theorem StreamView.Tidy.arriveAhead {n : Seq} {copy : Copy} (h : v.Tidy c) (hn : v.rt.nes = some n)
    (hc : dist n copy.seq ≠ 0) (hw : dist n copy.seq ≤ c.entry.window) : (v.arriveAhead c n copy).Tidy c := by
  have early : copy.seq ≠ n := fun e => hc ((dist_eq_zero n copy.seq).2 e)
  simp only [StreamView.arriveAhead]
  split
  · split
    · exact (h.replace hn early).of_fields rfl rfl rfl rfl
    · exact h.of_fields rfl rfl rfl rfl
  · rename_i unheld
    have absent : ∀ x ∈ v.rt.hold, x.seq ≠ copy.seq := fun x hx same => by
      have := List.find?_eq_none.1 unheld x hx
      simp [same] at this
    split
    · exact h.hold hn hw absent fun same => absurd same early
    · exact h.pressureRelease hn hw absent

theorem StreamView.tidy_of_empty (h : v.rt.hold = []) : v.Tidy c := .of_ordered (Runtime.ordered_of_empty h)

theorem StreamView.Tidy.resynchronise {copy : Copy} (h : v.Tidy c) : (v.resynchronise c copy).Tidy c := by
  have flushed (x y : StreamView) (hh : x.rt.hold = []) (hy : y.rt.hold = (x.release c copy true false).rt.hold) :
      (y.closeArrival c).Tidy c := by
    refine StreamView.tidy_of_empty ((y.keeps_closeArrival c).hold.trans (hy.trans ?_))
    rw [(x.keeps_release c copy true false).hold, hh]
  simp only [StreamView.resynchronise]
  split
  · exact v.keeps_noBufferDrop.tidy h
  · split <;> split <;> refine flushed _ _ ?_ rfl <;> rfl

theorem StreamView.Tidy.arriveOutOfWindow {copy : Copy} (h : v.Tidy c) : (v.arriveOutOfWindow c copy).Tidy c := by
  simp only [StreamView.arriveOutOfWindow]
  split
  · exact StreamView.Tidy.resynchronise (h.of_fields rfl rfl rfl rfl)
  · exact h.of_fields rfl rfl rfl rfl

theorem StreamView.Tidy.arriveFollowing {n : Seq} {copy : Copy} (h : v.Tidy c) (hn : v.rt.nes = some n) :
    (v.arriveFollowing c n copy).Tidy c := by
  simp only [StreamView.arriveFollowing]
  split
  · rename_i zero
    exact h.arriveNext hn ((dist_eq_zero n copy.seq).1 zero)
  · rename_i later
    split
    · exact h.of_fields rfl rfl rfl rfl
    · split
      · exact h.arriveAhead hn later ‹_›
      · exact h.arriveOutOfWindow

/-- In SEEKING and STARVED nothing is held (R21). -/
theorem StreamView.tidy_arriveSeeking {copy : Copy} (hh : v.rt.hold = []) : (v.arriveSeeking c copy).Tidy c := by
  simp only [StreamView.arriveSeeking]
  split
  · exact StreamView.tidy_of_empty ((StreamView.keeps_closeArrival c _).hold.trans
      ((v.takeBuffer.keeps_release c copy false true).hold.trans hh))
  · exact StreamView.tidy_of_empty hh

theorem StreamView.tidy_arriveStarved {n : Seq} {copy : Copy} (hh : v.rt.hold = []) :
    (v.arriveStarved c n copy).Tidy c := by
  simp only [StreamView.arriveStarved]
  split
  · exact (StreamView.tidy_of_empty hh).arriveOutOfWindow
  · split
    · exact StreamView.tidy_of_empty ((StreamView.keeps_closeArrival c _).hold.trans
        ((StreamView.keeps_release c copy false false _).hold.trans
          ((StreamView.declareLost_hold c copy.seq v.takeBuffer).trans hh)))
    · exact StreamView.tidy_of_empty hh

theorem StreamView.arrive_ordered {copy : Copy} (hf : v.rt.follows c.entry) (h : v.rt.ordered c.entry) :
    (v.arrive c copy).rt.ordered c.entry := by
  obtain ⟨⟨-, seeking, -, starved⟩, -⟩ := (Runtime.follows_iff _ _).1 hf
  have tidy := StreamView.Tidy.of_ordered h
  simp only [StreamView.arrive]
  split
  · rename_i hs
    exact (StreamView.tidy_arriveSeeking (seeking hs).2.1).reexamine
  · exact (tidy.arriveFollowing ‹_›).reexamine
  · exact (tidy.arriveFollowing ‹_›).reexamine
  · rename_i hs _
    exact (StreamView.tidy_arriveStarved (starved hs).2.1).reexamine
  · exact h

theorem StreamView.admitCopy_ordered (copy : Copy) (hf : v.rt.follows c.entry) (h : v.rt.ordered c.entry) :
    (v.admitCopy c copy).rt.ordered c.entry := by
  simp only [StreamView.admitCopy]
  split
  · exact Runtime.ordered_congr rfl rfl rfl h
  · split
    · exact Runtime.ordered_congr rfl rfl rfl h
    · exact StreamView.arrive_ordered hf h

/-! ### Deadlines, reviews and the changes of a swap -/

/-- At a deadline with copies held, NES goes to the head, and the run follows (R50, R51). -/
theorem StreamView.Tidy.expireHeld {x : Moment} {n : Seq} {h : Copy} {t : List Copy} (hv : v.Tidy c)
    (hn : v.rt.nes = some n) (hh : v.rt.hold = h :: t) : (v.expireHeld c x h).Tidy c := by
  have order := hv.ranked n hn
  obtain ⟨hold, -⟩ := StreamView.declareLost_keeps (c := c) (m := h.seq) hn
  have ranked : (v.declareLost c h.seq).rt.ranked c.entry.window := by
    intro m hm
    rw [StreamView.declareLost_nes h.seq hn] at hm
    cases hm
    rw [hold]
    refine holdOrdered_shift order fun y hy => ?_
    rw [hh] at hy
    cases hy
    exact le_refl _
  have run := StreamView.Tidy.of_ordered (StreamView.releaseRun_ordered (c := c) true _ (v.declareLost c h.seq) rfl ranked)
  simp only [StreamView.expireHeld]
  split <;> exact run.of_fields rfl rfl rfl rfl

theorem StreamView.placeholder_hold (c : StreamCtx) (n : Seq) (v : StreamView) :
    (v.placeholder c n).rt.hold = v.rt.hold := by
  simp only [StreamView.placeholder]
  split
  · exact (StreamView.keeps_deliver c _ _).hold
  · exact StreamView.declareLost_hold c (n + 1) v.noteRefusal

theorem StreamView.expireDue_ordered {x : Moment} {n : Seq} (hn : v.rt.nes = some n) (h : v.rt.ordered c.entry) :
    (v.expireDue c x n).rt.ordered c.entry := by
  simp only [StreamView.expireDue]
  split
  · rename_i y t held
    exact ((StreamView.Tidy.of_ordered h).expireHeld hn held).reexamine
  · rename_i empty
    refine Runtime.ordered_of_empty ?_
    split
    · rw [StreamView.closeBridging_eq]
      exact (StreamView.placeholder_hold c n v).trans empty
    · exact empty

theorem StreamView.keeps_mapSelector {g : Selector → Selector} (h : ∀ q, (g q).active = q.active) (v : StreamView) :
    v.Keeps (v.mapSelector g) := .of_fields rfl rfl (Runtime.active_map h) rfl

theorem StreamView.review_ordered (h : v.rt.ordered c.entry) : (v.review c).rt.ordered c.entry := by
  simp only [StreamView.review]
  split
  · exact h
  · have marked := v.keeps_mapSelector (g := fun q => { q with reviewPending := false }) fun _ => rfl
    exact ((marked.trans (StreamView.keeps_evaluate c _ _)).tidy (.of_ordered h)).reexamine

theorem StreamView.expireHoldOff_ordered (h : v.rt.ordered c.entry) : (v.expireHoldOff c).rt.ordered c.entry :=
  have stopped := v.keeps_mapSelector (g := fun q => { q with reviewPending := false, holdOff := none }) fun _ => rfl
  ((stopped.trans (StreamView.keeps_immediateSwitch c _)).tidy (.of_ordered h)).reexamine

theorem StreamView.restart_nes (c : StreamCtx) (v : StreamView) : (v.restart c).rt.nes = none := by
  simp only [StreamView.restart]
  split
  · rfl
  · split
    · exact (StreamView.keeps_immediateSwitch c _).nes
    · rfl

/-- A trimmed hold list is a part of the one before, within the new window (R154). -/
theorem Runtime.trimmed_ordered {e o : Entry} {r : Runtime} (hm : o.mode.same e.mode = true) (h : r.ordered o) :
    Runtime.ordered e { r with hold := r.trimmed e } := by
  intro n hn
  obtain ⟨order, fallback⟩ := h n hn
  have trim : r.trimmed e = ((r.hold.filter fun h => h.feed ∈ e.feeds).filter fun h => dist n h.seq ≤ e.window).take
      e.holdLimit := by
    have nes : r.nes = some n := hn
    simp only [Runtime.trimmed, nes]
  have part : (r.trimmed e).Sublist r.hold := by
    rw [trim]
    exact (List.take_sublist _ _).trans (List.filter_sublist.trans List.filter_sublist)
  refine ⟨⟨(holdOrdered_sublist order part).1, fun x hx => ?_⟩, fun x hx same deliverable => ?_⟩
  · rw [show ({ r with hold := r.trimmed e } : Runtime).hold = r.trimmed e from rfl, trim] at hx
    exact of_decide_eq_true (List.mem_filter.1 (List.mem_of_mem_take hx)).2
  · exact fallback x (part.subset hx) same (deliverable.imp_left (Mode.same_first hm).2)

theorem Runtime.follows.unheld {e : Entry} {r : Runtime} (h : r.follows e) (hn : r.nes = none) : r.hold = [] := by
  obtain ⟨shaped, -⟩ := (Runtime.follows_iff _ _).1 h
  by_contra hold
  have armed := shaped.2.2.1 (shaped.followed_of_hold hold)
  rw [hn] at armed
  cases armed.1

theorem StreamView.retune_ordered {o : Entry} (hm : o.mode.same c.entry.mode = true) (hf : v.rt.follows o)
    (h : v.rt.ordered o) : (v.retune c).rt.ordered c.entry := by
  have trimmed : (StreamView.clearCandidate ((v.mapRt fun r => { r with hold := v.rt.trimmed c.entry }).freeBuffers c
      (v.rt.hold.length - (v.rt.trimmed c.entry).length))).rt.ordered c.entry := by
    have keeps := StreamView.keeps_freeBuffers c (v.rt.hold.length - (v.rt.trimmed c.entry).length)
      (v.mapRt fun r => { r with hold := v.rt.trimmed c.entry })
    have record := StreamView.freeBuffers_rt c (v.rt.hold.length - (v.rt.trimmed c.entry).length)
      (v.mapRt fun r => { r with hold := v.rt.trimmed c.entry })
    have active := congrArg Runtime.active record
    exact Runtime.ordered_congr (r := { v.rt with hold := v.rt.trimmed c.entry }) keeps.nes keeps.hold active
      (Runtime.trimmed_ordered hm h)
  rw [StreamView.retune_eq c v hf.unheld]
  cases c.entry.mode with
  | first => exact trimmed
  | preferred p =>
    have marked := StreamView.keeps_mapSelector (g := fun q => { q with rescueRun := none, reviewPending := false })
      (fun _ => rfl) (StreamView.clearCandidate ((v.mapRt fun r => { r with hold := v.rt.trimmed c.entry }).freeBuffers c
        (v.rt.hold.length - (v.rt.trimmed c.entry).length)))
    exact ((marked.trans (StreamView.keeps_evaluate c p _)).tidy (.of_ordered trimmed)).reexamine

/-! ### The invariant -/

theorem entryKept_ordered : EntryKept fun e r => r.follows e ∧ r.ordered e where
  review _ _ := fun ⟨follows, ordered⟩ => ⟨StreamView.review_follows follows, StreamView.review_ordered ordered⟩
  holdOff _ _ := fun ⟨follows, ordered⟩ =>
    ⟨StreamView.expireHoldOff_follows follows, StreamView.expireHoldOff_ordered ordered⟩
  arrival _ _ copy := fun ⟨follows, ordered⟩ =>
    ⟨StreamView.admitCopy_follows copy follows, StreamView.admitCopy_ordered copy follows ordered⟩
  due _ _ _ _ hs hn := fun ⟨follows, ordered⟩ =>
    ⟨StreamView.expireDue_follows hs follows, StreamView.expireDue_ordered hn ordered⟩
  restart c v := fun ⟨follows, _⟩ =>
    ⟨StreamView.restart_follows follows, Runtime.ordered_of_absent (StreamView.restart_nes c v)⟩
  initialise c v := ⟨StreamView.initialise_follows c v, Runtime.ordered_of_absent rfl⟩
  retune _ _ _ hm := fun ⟨follows, ordered⟩ =>
    ⟨StreamView.retune_follows hm follows, StreamView.retune_ordered hm follows ordered⟩
  mark e r := fun ⟨follows, ordered⟩ =>
    ⟨entryKept_follows.mark e r follows, Runtime.ordered_congr (r := r) rfl rfl
      (Runtime.active_map (g := fun q => { q with reviewPending := true }) fun _ => rfl) ordered⟩
  counters _ _ _ := fun ⟨follows, ordered⟩ => ⟨follows, ordered⟩

theorem State.holdsOrdered_iff (s : State) :
    s.holdsOrdered ↔ s.recordsStand fun e r => r.follows e ∧ r.ordered e := by
  rw [State.holdsOrdered, State.recordsFollow_iff]
  constructor
  · rintro ⟨⟨apart, stand⟩, order⟩
    refine ⟨apart, fun i => ⟨(stand i).1, fun e he => ⟨(stand i).2 e he, fun n hn => order i e n he hn⟩⟩⟩
  · rintro ⟨apart, stand⟩
    exact ⟨⟨apart, fun i => ⟨(stand i).1, fun e he => ((stand i).2 e he).1⟩⟩,
      fun i e n he hn => ((stand i).2 e he).2 n hn⟩

/-- Settles O14: NES moves up to the head of the hold list at most, copies join in their places, and a copy of NES that a
switch makes deliverable goes at the re-examination that ends the event. -/
theorem holdListsStayOrdered : Obligations.HoldListsStayOrdered := by
  intro s t h he
  rw [State.holdsOrdered_iff] at h ⊢
  exact (kept_recordsStand entryKept_ordered).step (fun _ h => h) (fun _ _ h => h) s t h he

end Sys2Proof.Machine
end


section
/-! The statements on single steps: the step itself, power-on, the delivery port, the notice unit and the idle expiry. -/

namespace Sys2Proof.Machine

/-! ### Steps and power-on -/

/-- Settles O1: `step` is defined by these two cases, and part time is the low 32 bits of the elapsed microseconds. -/
theorem stepRunsFrontCommand : Obligations.StepRunsFrontCommand :=
  ⟨fun _ _ _ => rfl, fun s => ⟨_, rfl, rfl, State.partTime_tick { s with pending := [] }⟩⟩

/-- ALERT is asserted after POR: the latch of each feed is set. -/
theorem State.powerOn_alert (s : State) : s.powerOn.alert = true := by
  have latch : rd s.powerOn.feedLatches 0 = true := rd_replicate true 0
  simp only [State.alert, Bool.or_eq_true, List.any_eq_true]
  exact .inl ⟨0, mem_allFeeds 0, latch⟩

/-- Settles O4: every table of the reset state holds one value throughout. -/
theorem powerOnValues : Obligations.PowerOnValues := by
  intro s
  exact ⟨s.powerOn, rfl, rfl, rfl, rfl,
    fun f => ⟨rd_replicate _ f, rd_replicate _ f, rd_replicate _ f, rd_replicate _ f⟩,
    fun i => ⟨rd_replicate _ i, rd_replicate _ i, rd_replicate _ i, rd_replicate _ i⟩,
    rfl, rfl, rfl, rfl, rfl, rfl, rfl, rfl, rfl, rfl, rfl, rfl, s.powerOn_alert⟩

/-- Settles O5: all 512 buffers are free, every queue is empty, the banks are empty and equal, every monitor is at its
reset record, and every runtime record is DISABLED. -/
theorem resetMeetsInvariants : Obligations.ResetMeetsInvariants := by
  have held : State.reset.heldEntries = 0 := State.heldEntries_eq_zero fun i => by
    simp [State.reset, Runtime.disabled]
  obtain ⟨engine, live, standby⟩ := State.reset.powerOn_banks
  refine ⟨⟨by rw [held]; rfl, fun h => nomatch h⟩,
    ⟨Nat.zero_le _, Nat.zero_le _, fun _ hf => (by cases hf), Nat.zero_le _, fun _ => ⟨rfl, rfl, rfl, rfl, rfl⟩⟩,
    ⟨Nat.zero_le _, Nat.zero_le _, List.nodup_nil⟩,
    ⟨Nat.zero_le _, List.nodup_nil, fun _ hr => (by cases hr), ?_⟩,
    (State.banksApart_iff State.reset).1 (State.banksApart_powerOn State.reset),
    State.tablesSound_ready engine live standby Bank.empty_indexed Bank.empty_inRange List.nodup_nil changesInRange_nil,
    State.reset.feedsConsistent_powerOn,
    (State.recordsFollow_iff State.reset).2 State.reset.recordsStand_powerOn,
    (State.holdsOrdered_iff State.reset).2 State.reset.recordsStand_powerOn⟩
  change 1 ≤ 8 ∧ 8 ≤ 16 ∧ 8 ≤ 8 ∧ 1 ≤ 50 ∧ 50 ≤ 1000 ∧ Config.maskReset &&& 0x1FFF = Config.maskReset
  decide

/-! ### The delivery port -/

/-- Settles O38: the frames flushed are the data queue's and the one in transmission, and freeing their buffers tests the
pressure flag once. -/
theorem deliveryLinkEventsFlushThePort : Obligations.DeliveryLinkEventsFlushThePort := by
  intro s settled d sending noticeSending flushed free recovers lost
  have inTransmission : d.transmitter.dataFrames = sending := by
    cases h : d.transmitter <;> simp [sending, h, Transmitter.dataFrames]
  have noticeInTransmission : d.transmitter.noticeFrames = noticeSending := by
    cases h : d.transmitter <;> simp [noticeSending, h, Transmitter.noticeFrames]
  have lostNotices : noticeFrames d.controlQueue + d.transmitter.noticeFrames = lost := by
    rw [noticeInTransmission, noticeFrames, List.countP_eq_length_filter]
  refine ⟨?_, rfl⟩
  have event : exec .deliveryLinkDown s = .next s.deliveryLinkDown := rfl
  rw [event, State.deliveryLinkDown, State.freeBuffers_eq, lostNotices, inTransmission]
  · rfl
  · exact fun _ => settled

section Arbiter

variable {s : State} {f : Frame} {rest : List Frame}
  (ready : (s.delivery.linkUp && s.delivery.transmitter == .idle) = true)

include ready

theorem State.transmissionStart_data (hd : s.dataQueue = f :: rest)
    (hc : s.delivery.controlQueue = [] ∨ s.delivery.dataRun < 4) : s.transmissionStart = s.serveData f rest := by
  rw [State.transmissionStart, if_pos ready, hd]
  rcases hq : s.delivery.controlQueue with _ | ⟨g, crest⟩
  · rfl
  · exact if_pos (hc.resolve_left (by simp [hq]))

theorem State.transmissionStart_control (hc : s.delivery.controlQueue = f :: rest)
    (hd : s.dataQueue = [] ∨ 4 ≤ s.delivery.dataRun) : s.transmissionStart = s.serveControl f rest := by
  rw [State.transmissionStart, if_pos ready, hc]
  rcases hq : s.dataQueue with _ | ⟨g, drest⟩
  · rfl
  · exact if_neg (Nat.not_lt.2 (hd.resolve_left (by simp [hq])))

theorem State.transmissionStart_empty (hd : s.dataQueue = []) (hc : s.delivery.controlQueue = []) :
    s.transmissionStart = s := by
  rw [State.transmissionStart, if_pos ready, hd, hc]

end Arbiter

/-- Settles O39: the rows of the arbiter's table, by which queues hold a frame. -/
theorem arbiterServesByTheTable : Obligations.ArbiterServesByTheTable := by
  intro s d ready
  have test : (s.delivery.linkUp && s.delivery.transmitter == .idle) = true ↔ ready := by simp [ready, d]
  refine ⟨fun f rest hr hd hc => congrArg Host.Outcome.next (State.transmissionStart_data (test.2 hr) hd hc),
    fun f rest hr hc hd => congrArg Host.Outcome.next (State.transmissionStart_control (test.2 hr) hc hd),
    fun idle => congrArg Host.Outcome.next ?_⟩
  by_cases hr : ready
  · obtain ⟨hd, hc⟩ := idle.resolve_left (not_not_intro hr)
    exact State.transmissionStart_empty (test.2 hr) hd hc
  · exact if_neg (mt test.1 hr)

/-- Settles O40: a completion frees the buffers of the frame in transmission, one for a data frame and none for a control
frame. -/
theorem completionFreesAndRepliesAreAdmitted : Obligations.CompletionFreesAndRepliesAreAdmitted := by
  intro s d recovers
  refine ⟨fun f sent => congrArg Host.Outcome.next ?_, fun f sent => congrArg Host.Outcome.next ?_,
    fun r rest hw room => congrArg Host.Outcome.next ?_, fun full => congrArg Host.Outcome.next ?_⟩
  · have data : s.delivery.transmitter = .data f := sent
    rw [State.transmissionComplete, data]
    exact State.freeBuffers_eq _ 1 fun h => nomatch h
  · have control : s.delivery.transmitter = .control f := sent
    rw [State.transmissionComplete, control]
    rfl
  · have waits : s.delivery.replyWait = r :: rest := hw
    rw [State.replyWaitAdmit, waits]
    exact if_pos room
  · rw [State.replyWaitAdmit]
    split
    · rfl
    · rename_i r rest waits
      exact if_neg (Nat.not_lt.2 (full.resolve_right (by simp [d, waits])))

/-! ### The idle expiry -/

/-- Settles O44: the expiry has been reached, or not. -/
theorem idleExpiryClosesTheSession : Obligations.IdleExpiryClosesTheSession := by
  intro s ss session
  refine ⟨fun due => congrArg Host.Outcome.next ?_, fun early => congrArg Host.Outcome.next ?_⟩ <;>
    simp only [State.idleExpire, session]
  · exact if_pos (decide_eq_true due)
  · exact if_neg (by simpa [reached] using early)

/-! ### The notice unit -/

/-- A record matches a notice of its kind and subject (R159). -/
theorem NoticeRecord.matchesNotice_iff (r : NoticeRecord) (n : Notice) :
    r.matchesNotice n = true ↔ r.kind = n.kind ∧ r.subject = n.subject := by
  simp [NoticeRecord.matchesNotice]

theorem State.takeNotice_known (s : State) (n : Notice)
    (h : ∃ r ∈ s.notices.queue, r.kind = n.kind ∧ r.subject = n.subject) :
    s.takeNotice n = { s with notices := { s.notices with queue := s.notices.queue.map fun r =>
      if r.kind = n.kind ∧ r.subject = n.subject then { r with repeats := min (r.repeats + 1) 255, last := s.partTime }
      else r } } := by
  have known : s.notices.queue.any (·.matchesNotice n) = true := by
    simpa only [List.any_eq_true, NoticeRecord.matchesNotice_iff] using h
  simp only [State.takeNotice, known, if_true, coalesceInto, NoticeRecord.matchesNotice_iff, NoticeRecord.coalesce]

theorem State.takeNotice_unknown (s : State) (n : Notice)
    (h : ¬∃ r ∈ s.notices.queue, r.kind = n.kind ∧ r.subject = n.subject) :
    s.takeNotice n =
      if s.notices.queue.length < 32 then
        { s with notices := { s.notices with queue := s.notices.queue ++ [
          { kind := n.kind, subject := n.subject, tag := s.recordTag n, repeats := 1, first := s.partTime,
            last := s.partTime, detail := n.detail }] } }
      else { s with notices := { s.notices with lost := satAdd16 s.notices.lost 1 } } := by
  have unknown : ¬s.notices.queue.any (·.matchesNotice n) = true := by
    simpa only [List.any_eq_true, NoticeRecord.matchesNotice_iff] using h
  exact if_neg unknown

theorem State.noticeRaise_earlier {s : State} {n : Notice} {rest : List Notice} (he : s.notices.earlier = n :: rest) :
    s.noticeRaise = { s with notices := { s.notices with earlier := rest } }.takeNotice n := by
  simp only [State.noticeRaise, he]

theorem State.noticeRaise_raised {s : State} {n : Notice} {rest : List Notice} (he : s.notices.earlier = [])
    (hr : s.notices.raised = n :: rest) :
    s.noticeRaise =
      if s.notices.mask.getLsbD n.kind.bit = true then
        { s with notices := { s.notices with raised := rest } }.takeNotice n
      else { s with notices := { s.notices with raised := rest } } := by
  simp only [State.noticeRaise, he, hr, maskAllows]

/-- Settles O59: the oldest notice that waits is `n` with `u` the unit without it, and what happens to it is `takeNotice`
in the state with `u`. -/
theorem raisedNoticesAreQueuedOrLost : Obligations.RaisedNoticesAreQueuedOrLost := by
  intro s n rest v wanted
  refine ⟨fun he hr => congrArg Host.Outcome.next ?_, fun he hr masked => congrArg Host.Outcome.next ?_,
    fun u oldest => ?_⟩
  · have earlier : s.notices.earlier = [] := he
    have raised : s.notices.raised = [] := hr
    simp only [State.noticeRaise, earlier, raised]
  · exact (State.noticeRaise_raised he hr).trans (if_neg masked)
  · intro known tag
    have taken : s.noticeRaise = { s with notices := u }.takeNotice n := by
      rcases oldest with ⟨he, rfl⟩ | ⟨he, hr, kept, rfl⟩
      · exact State.noticeRaise_earlier he
      · exact (State.noticeRaise_raised he hr).trans (if_pos kept)
    have rest : u.queue = v.queue ∧ u.lost = v.lost := by
      rcases oldest with ⟨-, rfl⟩ | ⟨-, -, -, rfl⟩ <;> exact ⟨rfl, rfl⟩
    obtain ⟨queue, lost⟩ := rest
    have label : ({ s with notices := u } : State).recordTag n = tag := by
      simp only [tag]
      split
      · rename_i i stream
        split
        · exact State.recordTag_live _ n i _ stream ‹_›
        · exact State.recordTag_empty _ n i stream ‹_›
      · rename_i f feed
        simp only [State.recordTag, feed, Config.managementTag]
      · rename_i part
        simp only [State.recordTag, part, Config.managementTag]
    have state (t : State) (h : s.noticeRaise = t) : exec .noticeRaise s = .next t := congrArg Host.Outcome.next h
    refine ⟨fun hk => state _ ?_, fun hu room => state _ ?_, fun hu full => state _ ?_⟩
    · have coalesced := State.takeNotice_known { s with notices := u } n (by rw [queue]; exact hk)
      rw [taken, coalesced, ← queue]
      rfl
    · have unknown := State.takeNotice_unknown { s with notices := u } n (by rw [queue]; exact hu)
      rw [taken, unknown, label, ← queue, if_pos (queue ▸ room)]
      rfl
    · have unknown := State.takeNotice_unknown { s with notices := u } n (by rw [queue]; exact hu)
      rw [taken, unknown, ← lost, if_neg (Nat.not_lt.2 (queue ▸ full))]

/-- Settles O60: the move's conditions are those of `noticeMayMove`, and the refill's is the timer's. -/
theorem noticesMoveAgainstCredits : Obligations.NoticesMoveAgainstCredits := by
  intro s u may
  have conditions : s.noticeMayMove = true ↔ may := by
    simp only [State.noticeMayMove, may, noticeFrames, List.countP_eq_length_filter, Bool.and_eq_true,
      decide_eq_true_eq, List.isEmpty_iff, and_assoc]
    rfl
  refine ⟨fun r rest hq ok => congrArg Host.Outcome.next ?_, fun stays => congrArg Host.Outcome.next ?_,
    fun due => congrArg Host.Outcome.next (if_pos (decide_eq_true due)),
    fun early => congrArg Host.Outcome.next (if_neg (by simpa [reached] using early))⟩
  · have queue : s.notices.queue = r :: rest := hq
    rw [State.noticeMove, queue]
    exact if_pos (conditions.2 ok)
  · rw [State.noticeMove]
    split
    · rfl
    · rename_i r rest queue
      exact if_neg fun ok => (stays.resolve_left (by simp [u, queue])) (conditions.1 ok)

end Sys2Proof.Machine
end


section
/-! The statements on sessions and on commands that only answer: which body a row executes, and how token and sequence
guard it (R121 to R126). -/

namespace Sys2Proof.Machine

/-! ### The rows of the commands (R122, R123) -/

/-- The body that a row of the command table executes. -/
def commandBody : Instr → Command → State → CommandEffect
  | .closeSession => closeBody
  | .status => statusBody
  | .readStream => readStreamBody
  | .readFeed => readFeedBody
  | .readNotices => readNoticesBody
  | .setFeed => setFeedBody
  | .setNotices => setNoticesBody
  | .clearCounters => clearCountersBody
  | .restartStream => restartStreamBody
  | .ackAlarms => ackAlarmsBody
  | .resetPartRestart => resetRestartBody
  | .resetPartClear => resetClearBody
  | .stageWrite => stageWriteBody
  | .stageRemove => stageRemoveBody
  | .unstage => unstageBody
  | .commit => commitBody
  | _ => unknownBody

theorem exec_sessionCommand {i : Instr} (h : i ∈ sessionCommands) (s : State) :
    exec i s = .next (s.onCommand (takesCommand i) (treatCommand true (commandBody i))) := by
  simp only [sessionCommands, List.mem_cons, List.not_mem_nil, or_false] at h
  rcases h with rfl | rfl | rfl | rfl | rfl | rfl | rfl | rfl | rfl | rfl | rfl | rfl <;> rfl

theorem exec_openCommand {i : Instr} (h : i ∈ openCommands) (s : State) :
    exec i s = .next (s.onCommand (takesCommand i) (treatCommand false (commandBody i))) := by
  simp only [openCommands, List.mem_cons, List.not_mem_nil, or_false] at h
  rcases h with rfl | rfl | rfl | rfl | rfl <;> rfl

section Rows

variable {i : Instr} {s : State} {c : Command} {rest : List Command}
  (hi : i ∈ sessionCommands ∨ i ∈ openCommands) (ht : takesCommand i c = true) (hw : s.waiting c rest)

include hi ht hw

/-- A waiting command is treated by its row, as a session command or as an open one. -/
theorem exec_treated :
    ∃ cls, (i ∈ sessionCommands → cls = true) ∧ (i ∈ openCommands → cls = false) ∧
      exec i s = .next (treatCommand cls (commandBody i) c (s.inboxLeft rest)) := by
  rcases hi with session | readOnly
  · refine ⟨true, fun _ => rfl, fun also => ?_, ?_⟩
    · exact absurd also (by revert session; cases i <;> simp [sessionCommands, openCommands])
    · rw [exec_sessionCommand session, State.onCommand_taken s c rest _ _ hw ht]
  · refine ⟨false, fun also => ?_, fun _ => rfl, ?_⟩
    · exact absurd also (by revert readOnly; cases i <;> simp [sessionCommands, openCommands])
    · rw [exec_openCommand readOnly, State.onCommand_taken s c rest _ _ hw ht]

theorem exec_next (hn : s.nextInSession c) :
    exec i s = .next (executeSequenced (commandBody i) c (s.inboxLeft rest)) := by
  obtain ⟨cls, -, -, e⟩ := exec_treated hi ht hw
  rw [e, treatCommand_next cls _ s c rest hn]

/-- A command that answers, executed as the session's next (R123). -/
theorem exec_next_answer {t : State} {r : ResultCode} {d : List Byte} (hn : s.nextInSession c)
    (hb : commandBody i c (s.inboxLeft rest) = answer t r d) : exec i s = .next (t.executed c r d) := by
  rw [exec_next hi ht hw hn, executeSequenced_answer _ c _ t r d hb]

omit hi in
/-- An open command that only answers, under a foreign token (R122). -/
theorem exec_foreign_answer {r : ResultCode} {d : List Byte} (ho : i ∈ openCommands) (hf : s.foreignToken c)
    (hb : commandBody i c (s.inboxLeft rest) = answer (s.inboxLeft rest) r d) :
    exec i s = .next ((s.inboxLeft rest).replied c r d) := by
  rw [exec_openCommand ho, State.onCommand_taken s c rest _ _ hw ht, treatCommand_foreign_open _ s c rest r d hf hb]

end Rows

/-! ### Replies again (R123, R124, R127) -/

theorem State.answerAgain_reply (s : State) (c : Command) (r : Reply) :
    s.answerAgain c (.reply r) = s.idleRestarted.sending (replyFrame r) :=
  State.placeReply_eq s.restartIdle r

theorem State.answerAgain_pendingCommit (s : State) (c : Command) (t : Token) (q : Byte) :
    s.answerAgain c (.pendingCommit t q) = s.idleRestarted.replied c .pending [] :=
  State.placeReply_eq s.restartIdle (replyTo c .pending [])

/-- Settles O43: the treatment of a command by its row's class, by whether a session is open under its token, and by its
sequence. -/
theorem tokenAndSequenceGuardExecution : Obligations.TokenAndSequenceGuardExecution := by
  intro i s c rest hi ht hw
  obtain ⟨cls, session, -, e⟩ := exec_treated hi ht hw
  refine ⟨fun hs foreign => ?_, fun ss session token => ⟨fun r last cache => ?_, fun t q last cache => ?_,
    fun hl hn => ?_⟩⟩
  · rw [e, session hs, treatCommand_foreign_session _ s c rest foreign]
  · rw [e, treatCommand_again cls _ s c rest ss session token last, cache, State.answerAgain_reply]
  · rw [e, treatCommand_again cls _ s c rest ss session token last, cache, State.answerAgain_pendingCommit]
  · rw [e, treatCommand_outOfOrder cls _ s c rest ss session token hl hn]

/-! ### OPEN_SESSION and CLOSE_SESSION (R125, R126) -/

theorem openTimeout_eq {args : List Byte} {t : Nat} (h : openTimeout args = some t) :
    ∃ b : Byte, args = [b] ∧ 1 ≤ b.toNat ∧ b.toNat ≤ 60 ∧ t = b.toNat := by
  unfold openTimeout at h
  split at h
  · rename_i b
    split at h
    · rename_i range
      exact ⟨b, rfl, range.1, range.2, (Option.some.inj h).symm⟩
    · cases h
  · cases h

theorem openTimeout_good {b : Byte} (h1 : 1 ≤ b.toNat) (h60 : b.toNat ≤ 60) : openTimeout [b] = some b.toNat :=
  if_pos ⟨h1, h60⟩

theorem openTimeout_bad {args : List Byte} (h : ¬∃ b : Byte, args = [b] ∧ 1 ≤ b.toNat ∧ b.toNat ≤ 60) :
    openTimeout args = none := by
  cases ht : openTimeout args with
  | none => rfl
  | some t =>
    obtain ⟨b, e, h1, h60, -⟩ := openTimeout_eq ht
    exact absurd ⟨b, e, h1, h60⟩ h

theorem byteOf_byte (b : Byte) : byteOf b.toNat = b := by simp [byteOf]

/-- The reply of an OPEN_SESSION that opens or renews carries its own argument byte (R125). -/
theorem openWith_eq (c : Command) (b : Byte) (staging : List StagedChange) (s : State) :
    openWith c b.toNat staging s = { s.replied c .ok (be32 s.generation ++ [b]) with
      session := some {
        token := c.token, last := c.seq, idleTimeout := b.toNat, staging := staging
        cache := .reply { token := c.token, seq := c.seq, code := c.code, result := .ok,
                          data := be32 s.generation ++ [b] }
        idleExpiry := s.elapsed + (b.toNat * 1000000) } } := by
  simp only [openWith, byteOf_byte, State.placeReply_eq]
  rfl

/-- Settles O41: the cases of `treatOpen`. -/
theorem openSessionOpensOrRenews : Obligations.OpenSessionOpensOrRenews := by
  intro s c rest hw code s' opened good
  have treated : exec .openSession s = .next (treatOpen c s') :=
    congrArg Host.Outcome.next (State.onCommand_taken s c rest _ _ hw (by simp [code]))
  rw [treated]
  refine ⟨fun b absent args h1 h60 => ?_, fun absent bad => ?_, fun ss some_ => ?_⟩
  · have closed : s'.session = none := absent
    simp only [treatOpen, closed, args, openTimeout_good h1 h60, openWith_eq]
    rfl
  · have closed : s'.session = none := absent
    simp only [treatOpen, closed, openTimeout_bad bad, State.placeReply_eq]
    rfl
  · have session : s'.session = some ss := some_
    refine ⟨fun b token last args h1 h60 => ?_, fun token last bad => ?_, fun r token last cache => ?_,
      fun t q token last cache => ?_, fun token => ?_⟩
    · simp only [treatOpen, session, if_pos token, if_neg last, args, openTimeout_good h1 h60, openWith_eq]
      rfl
    · simp only [treatOpen, session, if_pos token, if_neg last, openTimeout_bad bad, State.placeReply_eq]
      rfl
    · simp only [treatOpen, session, if_pos token, if_pos last, cache, State.answerAgain_reply]
    · simp only [treatOpen, session, if_pos token, if_pos last, cache, State.answerAgain_pendingCommit]
    · simp only [treatOpen, session, if_neg token, State.placeReply_eq]
      rfl

/-- Settles O42: the body closes the session after its reply, or refuses its arguments. -/
theorem closeSessionEndsTheSession : Obligations.CloseSessionEndsTheSession := by
  intro s c rest hw code
  have row : Instr.closeSession ∈ sessionCommands := by simp [sessionCommands]
  have takes : takesCommand .closeSession c = true := by simp [takesCommand, code]
  refine ⟨fun hn absent => ?_, fun hn some_ => ?_, fun closed => ?_⟩
  · rw [exec_next (.inl row) takes hw hn]
    simp only [executeSequenced, commandBody, closeBody, absent, List.isEmpty_nil, if_true, State.placeReply_eq]
    rfl
  · exact exec_next_answer (.inl row) takes hw hn (if_neg (by simpa using some_))
  · rw [exec_sessionCommand row, State.onCommand_taken s c rest _ _ hw takes,
      treatCommand_foreign_session _ s c rest (by simp [State.foreignToken, closed])]

/-! ### Arguments of the wrong length (R126, R133 to R149) -/

section Lengths

variable {c : Command} (s : State)

theorem closeBody_wrongLength (h : c.args.length ≠ 0) : closeBody c s = answer s .badArgument [] :=
  if_neg (by simpa using h)

theorem statusBody_wrongLength (h : c.args.length ≠ 0) : statusBody c s = answer s .badArgument [] :=
  if_neg (by simpa using h)

theorem readNoticesBody_wrongLength (h : c.args.length ≠ 0) : readNoticesBody c s = answer s .badArgument [] :=
  if_neg (by simpa using h)

theorem readFeedBody_wrongLength (h : c.args.length ≠ 1) : readFeedBody c s = answer s .badArgument [] := by
  unfold readFeedBody
  split
  · rename_i args
    simp [args] at h
  · rfl

theorem restartStreamBody_wrongLength (h : c.args.length ≠ 1) : restartStreamBody c s = answer s .badArgument [] := by
  unfold restartStreamBody
  split
  · rename_i args
    simp [args] at h
  · rfl

theorem resetRestartBody_wrongLevel (h : c.args ≠ [1]) : resetRestartBody c s = answer s .badArgument [] := if_neg h

theorem stageRemoveBody_wrongLength (h : c.args.length ≠ 1) : stageRemoveBody c s = answer s .badArgument [] := by
  unfold stageRemoveBody
  split
  · rename_i args
    simp [args] at h
  · rfl

theorem unstageBody_wrongLength (h : c.args.length ≠ 1) : unstageBody c s = answer s .badArgument [] := by
  unfold unstageBody
  split
  · rename_i args
    simp [args] at h
  · rfl

theorem readStreamBody_wrongLength (h : c.args.length ≠ 2) : readStreamBody c s = answer s .badArgument [] := by
  unfold readStreamBody
  split
  · rename_i args
    simp [args] at h
  · rfl

theorem clearCountersBody_wrongLength (h : c.args.length ≠ 2) : clearCountersBody c s = answer s .badArgument [] := by
  unfold clearCountersBody
  split
  · rename_i args
    simp [args] at h
  · rfl

theorem ackAlarmsBody_wrongLength (h : c.args.length ≠ 2) : ackAlarmsBody c s = answer s .badArgument [] := by
  unfold ackAlarmsBody
  split
  · rename_i args
    simp [args] at h
  · rfl

theorem commitBody_wrongLength (h : c.args.length ≠ 4) : commitBody c s = answer s .badArgument [] := if_neg h

theorem setNoticesBody_wrongLength (h : c.args.length ≠ 5) : setNoticesBody c s = answer s .badArgument [] := by
  simp only [setNoticesBody, setNoticesArgs, h, false_and, if_false]

theorem setFeedBody_wrongLength (h : c.args.length ≠ 10) : setFeedBody c s = answer s .badArgument [] := by
  simp only [setFeedBody, setFeedArgs, h, if_false]

theorem stageWriteBody_wrongLength (h : c.args.length ≠ 24) : stageWriteBody c s = answer s .badArgument [] := if_neg h

/-- Every command whose rule names one length answers another with BAD_ARGUMENT. -/
theorem commandBody_wrongLength {i : Instr} {k : Nat} (hk : argumentLength i = some k) (h : c.args.length ≠ k) :
    (i ∈ sessionCommands ∨ i ∈ openCommands) ∧ commandBody i c s = answer s .badArgument [] := by
  cases i <;> cases hk
  case closeSession => exact ⟨by simp [sessionCommands], closeBody_wrongLength s h⟩
  case status => exact ⟨by simp [openCommands], statusBody_wrongLength s h⟩
  case readNotices => exact ⟨by simp [openCommands], readNoticesBody_wrongLength s h⟩
  case readFeed => exact ⟨by simp [openCommands], readFeedBody_wrongLength s h⟩
  case restartStream => exact ⟨by simp [sessionCommands], restartStreamBody_wrongLength s h⟩
  case resetPartRestart =>
    exact ⟨by simp [sessionCommands], resetRestartBody_wrongLevel s fun e => h (congrArg List.length e)⟩
  case stageRemove => exact ⟨by simp [sessionCommands], stageRemoveBody_wrongLength s h⟩
  case unstage => exact ⟨by simp [sessionCommands], unstageBody_wrongLength s h⟩
  case readStream => exact ⟨by simp [openCommands], readStreamBody_wrongLength s h⟩
  case clearCounters => exact ⟨by simp [sessionCommands], clearCountersBody_wrongLength s h⟩
  case ackAlarms => exact ⟨by simp [sessionCommands], ackAlarmsBody_wrongLength s h⟩
  case commit => exact ⟨by simp [sessionCommands], commitBody_wrongLength s h⟩
  case setNotices => exact ⟨by simp [sessionCommands], setNoticesBody_wrongLength s h⟩
  case setFeed => exact ⟨by simp [sessionCommands], setFeedBody_wrongLength s h⟩
  case stageWrite => exact ⟨by simp [sessionCommands], stageWriteBody_wrongLength s h⟩

end Lengths

/-- Settles O47: the bodies refuse the length, whatever the state. -/
theorem wrongLengthIsBadArgument : Obligations.WrongLengthIsBadArgument := by
  intro i s c rest k ht hw hk h
  obtain ⟨row, refused⟩ := commandBody_wrongLength (s.inboxLeft rest) hk h
  exact ⟨fun hn => exec_next_answer row ht hw hn refused, fun ho hf => exec_foreign_answer ht hw ho hf refused⟩

/-! ### Commands that read (R133 to R137) -/

section Reading

variable (s : State)

theorem State.readStreamReply_entry (j : Slot) : s.readStreamReply j 0 =
    (.ok, [slotByte j, 0, slotStateCode (s.liveEntry j)] ++ ((s.liveEntry j).map entryRecord).getD []) := by
  simp only [State.readStreamReply, if_true]
  cases s.liveEntry j <;> rfl

theorem State.readStreamReply_notStaged (j : Slot) (h : ∀ x ∈ s.stagingList, x.slot ≠ j) :
    s.readStreamReply j 1 = (.notStaged, []) := by
  have absent : stagedFor j s.stagingList = none := by
    simpa [stagedFor, List.find?_eq_none] using h
  simp [State.readStreamReply, absent]

theorem State.readStreamReply_staged (j : Slot) (x : StagedChange)
    (h : s.stagingList.find? (fun x => x.slot == j) = some x) :
    s.readStreamReply j 1 = (.ok, [slotByte j, 1, slotStateCode (s.liveEntry j)] ++ x.change.bytes) := by
  simp [State.readStreamReply, stagedFor, h]

theorem State.readStreamReply_runtime (j : Slot) : s.readStreamReply j 2 =
    (.ok, [slotByte j, 2, slotStateCode (s.liveEntry j)] ++
      if s.liveEntry j = none then [] else runtimeBytes (rd s.runtimes j) (rd s.streamLatches j)) := by
  simp only [State.readStreamReply]
  cases s.liveEntry j <;> rfl

theorem StreamCounters.zero_bytes : StreamCounters.zero.bytes = List.replicate 52 0 := by decide

theorem State.readStreamReply_counters (j : Slot) : s.readStreamReply j 3 =
    (.ok, [slotByte j, 3, slotStateCode (s.liveEntry j)] ++
      if s.liveEntry j = none then List.replicate 52 0 else (rd s.runtimes j).counters.bytes) := by
  cases h : s.liveEntry j with
  | none => simp [State.readStreamReply, h, StreamCounters.zero_bytes]
  | some e => simp [State.readStreamReply, h]

theorem State.readStreamReply_badPart (j : Slot) (part : Byte) (h : 3 < part.toNat) :
    s.readStreamReply j part = (.badArgument, []) := by
  have other (n : Byte) (hn : n.toNat ≤ 3) : part ≠ n := by
    rintro rfl
    omega
  rw [State.readStreamReply, if_neg (other 0 (by decide)), if_neg (other 1 (by decide)), if_neg (other 2 (by decide)),
    if_neg (other 3 (by decide))]

theorem readStreamBody_eq {c : Command} {j : Slot} {part : Byte} (h : c.args = [slotByte j, part]) :
    readStreamBody c s = answer s (s.readStreamReply j part).1 (s.readStreamReply j part).2 := by
  simp only [readStreamBody, h, slotOf_slotByte]

theorem readFeedBody_eq {c : Command} {f : Feed} (h : c.args = [feedByte f]) :
    readFeedBody c s = answer s .ok (s.readFeedData f) := by
  simp only [readFeedBody, h, feedOf_feedByte]

theorem feedOf_none {b : Byte} (h : 3 < b.toNat) : feedOf b = none := dif_neg (by omega)

theorem readFeedBody_badFeed {c : Command} {b : Byte} (h : c.args = [b]) (hb : 3 < b.toNat) :
    readFeedBody c s = answer s .badArgument [] := by
  simp only [readFeedBody, h, feedOf_none hb]

end Reading

/-- Settles O45: each body answers and leaves the state as it is. -/
theorem openCommandsOnlyAnswer : Obligations.OpenCommandsOnlyAnswer := by
  intro i s c rest r d ht hw reads
  have answers : i ∈ openCommands ∧ commandBody i c (s.inboxLeft rest) = answer (s.inboxLeft rest) r d := by
    rcases reads with ⟨rfl, args, rfl, rfl⟩ | ⟨rfl, args, rfl, rfl⟩ | ⟨f, rfl, args, rfl, rfl⟩ | ⟨j, rfl, args, rfl, rfl⟩ |
      ⟨j, rfl, args, absent, rfl, rfl⟩ | ⟨j, ch, rfl, args, staged, rfl, rfl⟩ | ⟨j, rfl, args, rfl, rfl⟩ |
      ⟨j, rfl, args, rfl, rfl⟩ | ⟨rfl, ⟨a, part, args, bad⟩, rfl, rfl⟩ | ⟨rfl, ⟨b, args, bad⟩, rfl, rfl⟩ | ⟨rfl, rfl, rfl⟩ <;>
      refine ⟨by simp [openCommands], ?_⟩
    · exact if_pos (by simp [args])
    · exact if_pos (by simp [args])
    · exact readFeedBody_eq _ args
    · exact (readStreamBody_eq _ args).trans (by rw [State.readStreamReply_entry]; rfl)
    · exact (readStreamBody_eq _ args).trans (by rw [State.readStreamReply_notStaged (s.inboxLeft rest) j absent])
    · exact (readStreamBody_eq _ args).trans (by rw [State.readStreamReply_staged (s.inboxLeft rest) j ch staged]; rfl)
    · exact (readStreamBody_eq _ args).trans (by rw [State.readStreamReply_runtime]; rfl)
    · exact (readStreamBody_eq _ args).trans (by rw [State.readStreamReply_counters]; rfl)
    · have slot : a = slotByte (slotOf a) := (byteOf_byte a).symm
      exact (readStreamBody_eq _ (slot ▸ args)).trans (by rw [State.readStreamReply_badPart _ _ part bad])
    · exact readFeedBody_badFeed _ args bad
    · rfl
  obtain ⟨ho, hb⟩ := answers
  exact ⟨fun foreign => exec_foreign_answer ht hw ho foreign hb, fun hn => exec_next_answer (.inr ho) ht hw hn hb⟩

end Sys2Proof.Machine
end


section
/-! The statements on the session commands that set, clear, acknowledge and stage (sections 9.3, 9.4, 10.1 and 10.3). -/

namespace Sys2Proof.Machine

/-! ### SET_NOTICES and CLEAR_COUNTERS (R139, R140) -/

/-- Settles O49: the checks of the arguments are the body's. -/
theorem setNoticesReplacesTheSettings : Obligations.SetNoticesReplacesTheSettings := by
  intro s c rest hw hn code good
  have row : Instr.setNotices ∈ sessionCommands := by simp [sessionCommands]
  have takes : takesCommand .setNotices c = true := by simp [takesCommand, code]
  refine ⟨fun ok => exec_next_answer (.inl row) takes hw hn ?_, fun bad => exec_next_answer (.inl row) takes hw hn ?_⟩
  · have args : setNoticesArgs c.args =
        some (word16At c.args 0 &&& 0x1FFF, (byteAt c.args 2).toNat, (word16At c.args 3).toNat) := if_pos ok
    simp only [commandBody, setNoticesBody, args]
    rfl
  · have args : setNoticesArgs c.args = none := if_neg bad
    simp only [commandBody, setNoticesBody, args]

/-- A target type above 3 or a feed above 3 names no counters (R140). -/
theorem State.clearTarget_none (s : State) {type number : Byte}
    (h : 3 < type.toNat ∨ (type = 1 ∧ 3 < number.toNat)) : s.clearTarget type number = none := by
  rcases h with large | ⟨rfl, feed⟩
  · have other (n : Byte) (hn : n.toNat ≤ 3) : type ≠ n := by
      rintro rfl
      omega
    rw [State.clearTarget, if_neg (other 0 (by decide)), if_neg (other 1 (by decide)), if_neg (other 2 (by decide)),
      if_neg (other 3 (by decide))]
  · simp [State.clearTarget, feedOf_none feed]

/-- Settles O50: the cases of `clearTarget`. -/
theorem clearCountersClearsItsTarget : Obligations.ClearCountersClearsItsTarget := by
  intro s c rest type number hw hn code args s' port
  have row : Instr.clearCounters ∈ sessionCommands := by simp [sessionCommands]
  have takes : takesCommand .clearCounters c = true := by simp [takesCommand, code]
  have clears {t : State} (h : s'.clearTarget type number = some t) :
      exec .clearCounters s = .next (t.executed c .ok []) :=
    exec_next_answer (.inl row) takes hw hn (by simp only [commandBody, clearCountersBody, args]; rw [h])
  refine ⟨?_, ?_, ?_, ?_, fun bad => exec_next_answer (.inl row) takes hw hn ?_⟩
  · rintro i rfl rfl
    exact clears (by simp [State.clearTarget, slotOf_slotByte]; rfl)
  · rintro f rfl rfl
    exact clears (by simp [State.clearTarget, feedOf_feedByte]; rfl)
  · rintro rfl
    exact clears (by simp [State.clearTarget]; rfl)
  · rintro rfl
    exact ⟨s'.clearAllCounters, clears (by simp [State.clearTarget]), rfl, fun i => rd_tab _ i, fun f => rd_tab _ f⟩
  · have none : (s.inboxLeft rest).clearTarget type number = none := State.clearTarget_none _ bad
    simp only [commandBody, clearCountersBody, args, none]
    rfl

/-! ### ACK_ALARMS (R142, R164) -/

theorem ackTarget_none {type number : Byte} (h : 4 < type.toNat ∨ (type = 0 ∧ 3 < number.toNat)) :
    ackTarget type number = none := by
  rcases h with large | ⟨rfl, feed⟩
  · have other (n : Byte) (hn : n.toNat ≤ 4) : type ≠ n := by
      rintro rfl
      omega
    rw [ackTarget, if_neg (other 0 (by decide)), if_neg (other 1 (by decide)), if_neg (other 2 (by decide)),
      if_neg (other 3 (by decide)), if_neg (other 4 (by decide))]
  · simp [ackTarget, feedOf_none feed]

theorem feedByte_injective {f g : Feed} (h : feedByte f = feedByte g) : f = g :=
  Option.some.inj (by rw [← feedOf_feedByte f, h, feedOf_feedByte])

theorem slotByte_injective {i j : Slot} (h : slotByte i = slotByte j) : i = j := by
  rw [← slotOf_slotByte i, h, slotOf_slotByte]

theorem feedByte_of_le {b : Byte} (h : ¬3 < b.toNat) : ∃ f : Feed, b = feedByte f :=
  ⟨⟨b.toNat, by omega⟩, (byteOf_byte b).symm⟩

/-- The latches that a target of ACK_ALARMS names (R142). -/
theorem ackTarget_some {type number : Byte} (h : ¬(4 < type.toNat ∨ (type = 0 ∧ 3 < number.toNat))) :
    ∃ t, ackTarget type number = some t ∧
      (∀ f, rd t.feeds f = (type == 0 && number == feedByte f || type == 2 || type == 4)) ∧
      ∀ i, rd t.slots i = (type == 1 && number == slotByte i || type == 3 || type == 4) := by
  have types : type = 0 ∨ type = 1 ∨ type = 2 ∨ type = 3 ∨ type = 4 := by bv_omega
  rcases types with rfl | rfl | rfl | rfl | rfl
  · obtain ⟨g, rfl⟩ := feedByte_of_le fun large => h (.inr ⟨rfl, large⟩)
    refine ⟨{ feeds := tab fun f => f == g, slots := noneOf }, by simp [ackTarget, feedOf_feedByte], fun f => ?_,
      fun i => by simp [noneOf]⟩
    have same : feedByte g = feedByte f ↔ f = g := ⟨fun e => (feedByte_injective e).symm, fun e => by rw [e]⟩
    simp [same, Bool.beq_eq_decide_eq]
  · refine ⟨{ feeds := noneOf, slots := tab fun i => i == slotOf number }, by simp [ackTarget], fun f => by simp [noneOf],
      fun i => ?_⟩
    have same : number = slotByte i ↔ i = slotOf number :=
      ⟨fun e => by rw [e, slotOf_slotByte], fun e => by rw [e]; exact (byteOf_byte number).symm⟩
    simp [same, Bool.beq_eq_decide_eq]
  · exact ⟨{ feeds := allOf, slots := noneOf }, by simp [ackTarget], fun f => by simp [allOf], fun i => by simp [noneOf]⟩
  · exact ⟨{ feeds := noneOf, slots := allOf }, by simp [ackTarget], fun f => by simp [noneOf], fun i => by simp [allOf]⟩
  · exact ⟨{ feeds := allOf, slots := allOf }, by simp [ackTarget], fun f => by simp [allOf], fun i => by simp [allOf]⟩

/-- ALERT is asserted exactly while a latch is set (R164). -/
theorem State.alert_iff (s : State) :
    s.alert = true ↔ (∃ f, rd s.feedLatches f = true) ∨ ∃ i, rd s.streamLatches i = true := by
  simp only [State.alert, Bool.or_eq_true, List.any_eq_true, mem_allFeeds, mem_allSlots, true_and]

/-- The set latches of a target whose condition is present, or absent, counted (R142). -/
theorem State.targetLatches_eq (s : State) (t : AckTarget) (held : Bool) :
    s.targetLatches t held =
      (allFeeds.filter fun f => rd t.feeds f && rd s.feedLatches f && s.feedHeld f == held).length +
        (allSlots.filter fun i => rd t.slots i && rd s.streamLatches i && s.streamHeld i == held).length := by
  simp only [State.targetLatches, List.countP_eq_length_filter]

/-- Settles O52: the target's latches are those that `ackTarget_some` names, and each is kept while its condition is
present. -/
theorem ackAlarmsClearsUnheldLatches : Obligations.AckAlarmsClearsUnheldLatches := by
  refine ⟨State.alert_iff, fun s c rest type number hw hn code args => ?_⟩
  intro s' feedIn slotIn stuck count
  have row : Instr.ackAlarms ∈ sessionCommands := by simp [sessionCommands]
  have takes : takesCommand .ackAlarms c = true := by simp [takesCommand, code]
  refine ⟨fun bad => exec_next_answer (.inl row) takes hw hn ?_, fun good => ?_⟩
  · simp only [commandBody, ackAlarmsBody, args, ackTarget_none bad]
    rfl
  · obtain ⟨t, target, feeds, slots⟩ := ackTarget_some good
    refine ⟨s'.acknowledge t, exec_next_answer (.inl row) takes hw hn ?_, rfl, fun f => ?_, fun i => ?_⟩
    · have cleared : be16 (BitVec.ofNat 16 (s'.targetLatches t false)) =
          count (fun f => feedIn f && rd s.feedLatches f && (rd s.monitors f).usable)
            (fun i => slotIn i && rd s.streamLatches i && !stuck i) := by
        simp only [count, State.targetLatches_eq, feeds, slots, State.feedHeld, State.streamHeld, beq_false, Bool.not_not]
        rfl
      have left : be16 (BitVec.ofNat 16 (s'.targetLatches t true)) =
          count (fun f => feedIn f && rd s.feedLatches f && !(rd s.monitors f).usable)
            (fun i => slotIn i && rd s.streamLatches i && stuck i) := by
        simp only [count, State.targetLatches_eq, feeds, slots, State.feedHeld, State.streamHeld, beq_true]
        rfl
      simp only [commandBody, ackAlarmsBody, args, target]
      exact congrArg (answer _ _) (congrArg₂ (· ++ ·) cleared left)
    · have latch : rd (s'.acknowledge t).feedLatches f =
          (rd s.feedLatches f && (!feedIn f || !(rd s.monitors f).usable)) := by
        simp only [State.acknowledge, rd_tab, feeds]
        rfl
      rw [latch]
      cases feedIn f <;> cases (rd s.monitors f).usable <;> simp
    · have latch : rd (s'.acknowledge t).streamLatches i = (rd s.streamLatches i && (!slotIn i || stuck i)) := by
        simp only [State.acknowledge, rd_tab, slots]
        rfl
      rw [latch]
      cases slotIn i <;> cases stuck i <;> simp

/-! ### Staging (R145 to R147) -/

section Staging

variable {s : State} {ss : Session}

theorem State.stagingList_session (h : s.session = some ss) : s.stagingList = ss.staging := by
  simp only [State.stagingList, h]

theorem State.setStaging_of_session (h : s.session = some ss) (l : List StagedChange) :
    s.setStaging l = { s with session := some { ss with staging := l } } := by
  simp only [State.setStaging, h, Option.map_some]

theorem stagesSlot_iff (l : List StagedChange) (i : Slot) : stagesSlot l i = true ↔ ∃ x ∈ l, x.slot = i := by
  simp only [stagesSlot, List.any_eq_true, beq_iff_eq]

theorem stageEffect_present (h : s.session = some ss) (ch : StagedChange) (hp : ∃ x ∈ ss.staging, x.slot = ch.slot) :
    stageEffect s ch =
      answer (s.setStaging (ss.staging.map fun x => if x.slot = ch.slot then ch else x)) .ok [byteOf ss.staging.length] := by
  simp only [stageEffect, stageChange, State.stagingList_session h, (stagesSlot_iff _ _).2 hp, if_true, List.length_map]

theorem stageEffect_absent (h : s.session = some ss) (ch : StagedChange) (hp : ¬∃ x ∈ ss.staging, x.slot = ch.slot) :
    stageEffect s ch =
      if ss.staging.length < 16 then
        answer (s.setStaging (ss.staging ++ [ch])) .ok [byteOf (ss.staging ++ [ch]).length]
      else answer s .stagingFull [] := by
  have absent : ¬stagesSlot ss.staging ch.slot = true := mt (stagesSlot_iff _ _).1 hp
  simp only [stageEffect, stageChange, State.stagingList_session h, if_neg absent, Config.stagingPlaces]
  split_ifs <;> rfl

/-- The bodies that stage a change (R146, R147). -/
theorem stageBody_eq {i : Instr} {c : Command} {slot : Slot} {change : Change} (t : State)
    (h : (i = .stageWrite ∧ ∃ r e, c.args = slotByte slot :: r ∧ r.length = 23 ∧ checkRecord r = .ok e ∧
        change = .write e) ∨ (i = .stageRemove ∧ c.args = [slotByte slot] ∧ change = .remove)) :
    i ∈ sessionCommands ∧ commandBody i c t = stageEffect t ⟨slot, change⟩ := by
  rcases h with ⟨rfl, r, e, args, len, ok, rfl⟩ | ⟨rfl, args, rfl⟩ <;> refine ⟨by simp [sessionCommands], ?_⟩
  · simp [commandBody, stageWriteBody, args, len, ok, byteAt, slotOf_slotByte]
  · simp [commandBody, stageRemoveBody, args, slotOf_slotByte]

theorem unstageBody_present (h : s.session = some ss) {c : Command} {slot : Slot} (args : c.args = [slotByte slot])
    (hp : ∃ x ∈ ss.staging, x.slot = slot) :
    unstageBody c s = answer (s.setStaging (ss.staging.filter fun x => x.slot != slot)) .ok
      [byteOf (ss.staging.filter fun x => x.slot != slot).length] := by
  simp only [unstageBody, args, slotOf_slotByte, State.stagingList_session h, (stagesSlot_iff _ _).2 hp, if_true]

theorem unstageBody_absent (h : s.session = some ss) {c : Command} {slot : Slot} (args : c.args = [slotByte slot])
    (hp : ¬∃ x ∈ ss.staging, x.slot = slot) : unstageBody c s = answer s .notStaged [] := by
  have absent : ¬stagesSlot ss.staging slot = true := mt (stagesSlot_iff _ _).1 hp
  simp only [unstageBody, args, slotOf_slotByte, State.stagingList_session h, if_neg absent]

end Staging

/-- Settles O55: staging replaces, appends or is refused as `stageEffect` says, and UNSTAGE filters the list. -/
theorem stagingKeepsOneChangePerSlot : Obligations.StagingKeepsOneChangePerSlot := by
  intro i s c rest ss slot takes hw hn session s' staged present
  have session' : s'.session = some ss := session
  refine ⟨fun change stages => ?_, ?_, ?_⟩
  · obtain ⟨row, body⟩ := stageBody_eq s' stages
    refine ⟨fun hp => exec_next_answer (.inl row) takes hw hn ?_, fun hp room => exec_next_answer (.inl row) takes hw hn ?_,
      fun hp full => exec_next_answer (.inl row) takes hw hn ?_⟩
    · rw [body, stageEffect_present session' ⟨slot, change⟩ hp, State.setStaging_of_session session', List.length_map]
      rfl
    · rw [body, stageEffect_absent session' ⟨slot, change⟩ hp, if_pos room, State.setStaging_of_session session']
      rfl
    · rw [body, stageEffect_absent session' ⟨slot, change⟩ hp, if_neg (Nat.not_lt.2 full)]
  · rintro r w rfl args len bad
    refine exec_next_answer (.inl (by simp [sessionCommands])) takes hw hn ?_
    simp [commandBody, stageWriteBody, args, len, bad, byteAt, s']
  · rintro rfl args
    have row : Instr.unstage ∈ sessionCommands := by simp [sessionCommands]
    refine ⟨fun hp => exec_next_answer (.inl row) takes hw hn ?_, fun hp => exec_next_answer (.inl row) takes hw hn ?_⟩
    · rw [commandBody, unstageBody_present session' args hp, State.setStaging_of_session session']
      rfl
    · rw [commandBody, unstageBody_absent session' args hp]

/-! ### COMMIT (R149, R150) -/

section Commit

variable {s : State} {ss : Session}

/-- The table engine's states in which it refuses a COMMIT (R148, R149). -/
theorem EngineState.busy_iff (e : EngineState) :
    e.busy = true ↔ (∃ k r, e = .preparing k r) ∨ ∃ cs k, e = .syncing cs (some k) := by
  cases e with
  | ready => simp [EngineState.busy]
  | preparing k r => simp [EngineState.busy]
  | syncing cs q => cases q <;> simp [EngineState.busy]

/-- A staged write of an ENABLED entry whose tag another ENABLED entry of the result carries (R149). -/
theorem State.duplicates_iff (s : State) (cs : List StagedChange) (x : StagedChange) :
    s.duplicates cs x = true ↔ ∃ e, x.change = .write e ∧ e.enabled = true ∧
      ∃ j e', j ≠ x.slot ∧ s.resultEntry cs j = some e' ∧ e'.enabled = true ∧ e'.tag = e.tag := by
  cases hx : x.change with
  | remove => simp [State.duplicates, hx]
  | write e => simp [State.duplicates, hx, State.tagElsewhere_iff]

theorem commitBody_busy {c : Command} (hc : c.args.length = 4) (hb : s.engine.busy = true) :
    commitBody c s = answer s .busy [] := by
  simp only [commitBody, hc, hb, if_true]

theorem commitBody_stale {c : Command} (hc : c.args.length = 4) (hb : ¬s.engine.busy = true)
    (hg : word32At c.args 0 ≠ s.generation) : commitBody c s = answer s .stale [] := by
  simp only [commitBody, hc, if_true, if_neg hb, if_pos hg]

theorem commitBody_checked {c : Command} (hc : c.args.length = 4) (hb : ¬s.engine.busy = true)
    (hg : word32At c.args 0 = s.generation) :
    commitBody c s =
      match s.stagingList.find? (s.duplicates s.stagingList) with
      | some x => answer s .invalidEntry [slotByte x.slot, 0x05]
      | none => acceptCommit c s := by
  simp only [commitBody, hc, if_true, if_neg hb, hg, ne_eq, not_true_eq_false, if_false]
  rfl

/-- An accepted COMMIT is given no reply and leaves its marker in the cache (R127, R150). -/
theorem executeSequenced_accept {b : Command → State → CommandEffect} {c : Command} (h : s.session = some ss)
    (hb : b c s = acceptCommit c s) :
    executeSequenced b c s = { s with
      engine := s.engine.accept { token := c.token, seq := c.seq, changes := ss.staging }
      session := some { ss with
        last := c.seq, cache := .pendingCommit c.token c.seq, staging := []
        idleExpiry := s.elapsed + (ss.idleTimeout * 1000000) } } := by
  simp only [executeSequenced, hb, acceptCommit, State.recordExecuted, State.setStaging_of_session h,
    State.stagingList_session h, Option.map_some]
  rfl

end Commit

/-- Settles O56: the checks of `commitBody` in order, the first clash being the first of the list. -/
theorem commitIsCheckedInOrder : Obligations.CommitIsCheckedInOrder := by
  intro s c rest ss hw hn session code len s' busy result clashes accepted commit
  have row : Instr.commit ∈ sessionCommands := by simp [sessionCommands]
  have takes : takesCommand .commit c = true := by simp [takesCommand, code]
  have staging : s'.stagingList = ss.staging := State.stagingList_session session
  have engine : s'.engine.busy = true ↔ busy := EngineState.busy_iff s'.engine
  have entry (j : Slot) : s'.resultEntry ss.staging j = result j := by
    simp only [State.resultEntry, result]
    generalize ss.staging.find? _ = found
    rcases found with _ | ⟨k, _ | _⟩ <;> rfl
  have clash (x : StagedChange) : s'.duplicates ss.staging x = true ↔ clashes x := by
    simp only [State.duplicates_iff, clashes, entry]
  refine ⟨fun hb => exec_next_answer (.inl row) takes hw hn (commitBody_busy len (engine.2 hb)),
    fun hb hg => exec_next_answer (.inl row) takes hw hn (commitBody_stale len (mt engine.1 hb) hg),
    fun pre x post hb hg list first hx => exec_next_answer (.inl row) takes hw hn ?_, fun hg clear => ?_⟩
  · have found : s'.stagingList.find? (s'.duplicates s'.stagingList) = some x := by
      rw [staging, list, List.find?_append, List.find?_eq_none.2 fun y hy => ?_]
      · simp [← list, (clash x).2 hx]
      · rw [← list, clash]
        exact first y hy
    rw [commandBody, commitBody_checked len (mt engine.1 hb) hg, found]
  · have checked : s'.stagingList.find? (s'.duplicates s'.stagingList) = none := by
      rw [staging, List.find?_eq_none]
      exact fun x hx => mt (clash x).1 (clear x hx)
    have taken (e : EngineState) (hb : e.busy = false) (he : s.engine = e) :
        exec .commit s = .next (accepted (e.accept commit)) := by
      have free : ¬s'.engine.busy = true := by
        rw [show s'.engine = e from he, hb]
        exact Bool.false_ne_true
      rw [exec_next (.inl row) takes hw hn]
      have accepts : commitBody c s' = acceptCommit c s' := by rw [commitBody_checked len free hg, checked]
      rw [commandBody, executeSequenced_accept (s := s.inboxLeft rest) session accepts, show s'.engine = e from he]
      rfl
    exact ⟨taken .ready rfl, fun cs => taken (.syncing cs none) rfl⟩

end Sys2Proof.Machine
end


section
/-! The statements on frames received, on the link-up event and on the window expiry (R80 to R90, R97 to R100). -/

namespace Sys2Proof.Machine

/-! ### The tests of a received frame (R97, R98, R100) -/

theorem frameErrored_iff (frame : List Byte) : frameErrored frame = true ↔
    frame.length < 12 ∨ 252 < frame.length ∨ frame.length ≠ 12 + (byteAt frame 7).toNat ∨
      word32At frame (8 + (byteAt frame 7).toNat) ≠ checkWord (frame.take (8 + (byteAt frame 7).toNat)) := by
  simp only [frameErrored, payloadLength, Bool.or_eq_true, decide_eq_true_eq, bne_iff_ne, or_assoc]
  rfl

theorem misdirected_iff (frame : List Byte) :
    misdirected frame = true ↔ byteAt frame 0 ≠ 0x01 ∨ word16At frame 2 = 0xFFFF := by
  simp only [misdirected, frameKindByte, frameTag, FrameKind.code, Config.managementTag, Bool.or_eq_true, bne_iff_ne,
    beq_iff_eq]

theorem foreignFrame_iff (frame : List Byte) : foreignFrame frame = true ↔
    byteAt frame 0 ≠ 0x02 ∨ word16At frame 2 ≠ 0xFFFF ∨ (byteAt frame 7).toNat < 4 ∨ 236 < (byteAt frame 7).toNat := by
  simp only [foreignFrame, Bool.or_eq_true, bne_iff_ne, decide_eq_true_eq, or_assoc]
  rfl

/-! ### A frame on a feed (R98) -/

section Classified

variable (s : State) (f : Feed) (frame : List Byte)

theorem State.setMonitor_setMonitor (m k : Monitor) : (s.setMonitor f m).setMonitor f k = s.setMonitor f k := by
  simp only [State.setMonitor, wr_wr]

/-- The counters of a monitor just written are counted in its record. -/
theorem State.countFeed_setMonitor (m : Monitor) (g : FeedCounters → FeedCounters) :
    (s.setMonitor f m).countFeed f g = s.setMonitor f { m with counters := g m.counters } := by
  simp only [State.countFeed, State.setMonitor_setMonitor, State.setMonitor_monitors, rd_wr_self]

theorem State.classify_errored (h : frameErrored frame = true) :
    s.classify f frame = s.setMonitor f ((rd s.monitors f).report true) := if_pos h

theorem State.classify_misdirected (h : ¬frameErrored frame = true) (hm : misdirected frame = true) :
    s.classify f frame = s.setMonitor f { (rd s.monitors f).report false with
      counters := { ((rd s.monitors f).report false).counters with
        misdirected := satInc ((rd s.monitors f).report false).counters.misdirected } } := by
  simp only [State.classify, if_neg h, if_pos hm, State.countFeed_setMonitor]

theorem State.classify_unusable (h : ¬frameErrored frame = true) (hm : ¬misdirected frame = true)
    (hu : (rd s.monitors f).usable = false) :
    s.classify f frame = s.setMonitor f { (rd s.monitors f).report false with
      counters := { ((rd s.monitors f).report false).counters with
        unusableDrops := satInc ((rd s.monitors f).report false).counters.unusableDrops } } := by
  have unusable : ((rd s.monitors f).report false).usable = false := hu
  simp only [State.classify, if_neg h, if_neg hm, State.setMonitor_monitors, rd_wr_self, unusable, Bool.not_false,
    if_true, State.countFeed_setMonitor]

theorem State.classify_offered (h : ¬frameErrored frame = true) (hm : ¬misdirected frame = true)
    (hu : (rd s.monitors f).usable = true) :
    s.classify f frame = (s.setMonitor f ((rd s.monitors f).report false)).setPort f
      { rd s.ports f with offered := (rd s.ports f).offered ++ [copyOfFrame f frame] } := by
  have usable : ((rd s.monitors f).report false).usable = true := hu
  simp only [State.classify, if_neg h, if_neg hm, State.setMonitor_monitors, State.setMonitor_ports, rd_wr_self, usable,
    Bool.not_true, Bool.false_eq_true, if_false]

end Classified

/-- Settles O17: the rows of `classify`, on the state with the receive store emptied. -/
theorem feedFrameIsClassified : Obligations.FeedFrameIsClassified := by
  intro s f bytes frame size m k t errored mis window valid
  have rest (h : m.state ≠ .disabled) : exec (.feedFrameReceived f bytes) s = .next (t.classify f frame) :=
    congrArg Host.Outcome.next (if_neg h)
  have e : frameErrored frame = true ↔ errored := frameErrored_iff frame
  have d : misdirected frame = true ↔ mis := misdirected_iff frame
  refine ⟨fun disabled => congrArg Host.Outcome.next (if_pos disabled), fun enabled he => (rest enabled).trans ?_,
    fun enabled he hd => (rest enabled).trans ?_, fun enabled he hd hu => (rest enabled).trans ?_,
    fun enabled he hd hu => (rest enabled).trans ?_⟩
  · exact congrArg Host.Outcome.next (t.classify_errored f frame (e.2 he))
  · exact congrArg Host.Outcome.next (t.classify_misdirected f frame (mt e.1 he) (d.2 hd))
  · exact congrArg Host.Outcome.next (t.classify_unusable f frame (mt e.1 he) (mt d.1 hd) hu)
  · have port : rd t.ports f = { receiveStore := [], offered := (rd s.ports f).offered } := rd_wr_self ..
    rw [t.classify_offered f frame (mt e.1 he) (mt d.1 hd) hu, port]
    simp only [t, State.setPort, State.setMonitor, wr_wr]
    rfl

/-! ### A frame on the delivery link (R100, R120) -/

theorem State.inboxAccept_room (s : State) (c : Command) (h : s.inbox.length < 4) :
    s.inboxAccept c = { s with inbox := s.inbox ++ [c] } := if_pos h

theorem State.inboxAccept_full (s : State) (c : Command) (h : 4 ≤ s.inbox.length) :
    s.inboxAccept c = { s with
      inboxOverflows := satInc s.inboxOverflows
      notices := s.notices.raising [⟨.inboxOverflow, .part, 0xFFFF, 0⟩] } := if_neg (Nat.not_lt.2 h)

/-- Settles O37: the rows of `deliveryClassify`. -/
theorem deliveryFrameIsClassified : Obligations.DeliveryFrameIsClassified := by
  intro s bytes frame size payload d errored foreign command
  have e : frameErrored frame = true ↔ errored := frameErrored_iff frame
  have o : foreignFrame frame = true ↔ foreign := foreignFrame_iff frame
  refine ⟨fun he => congrArg Host.Outcome.next (if_pos (e.2 he)), fun he ho => congrArg Host.Outcome.next ?_,
    fun he ho room => congrArg Host.Outcome.next ?_, fun he ho full => congrArg Host.Outcome.next ?_⟩
  · exact (if_neg (mt e.1 he)).trans (if_pos (o.2 ho))
  · exact ((if_neg (mt e.1 he)).trans (if_neg (mt o.1 ho))).trans
      (State.inboxAccept_room { s with delivery := d } command room)
  · exact ((if_neg (mt e.1 he)).trans (if_neg (mt o.1 ho))).trans
      (State.inboxAccept_full { s with delivery := d } command full)

/-! ### The link-up event (R86) -/

/-- A feed that comes up from DOWN with no pending settings starts PROBATION with its first window (R80, R86). -/
theorem Monitor.linkUp_down {m : Monitor} (now : Moment) (h : m.state = .down) (hp : m.pending = none) :
    m.linkUp now = { m with
      link := true, state := .probation, acceptedRun := 0, rejectTally := 0
      window := some { expiry := now + m.current.windowLength, valid := 0, errored := 0 } } := by
  simp only [Monitor.linkUp, h, if_true, Monitor.startWindow, Monitor.adopt, hp, after]

/-- Settles O19: a DOWN feed was unusable and has nothing pending; in PROBATION its usability is its advisory setting. -/
theorem linkUpStartsProbation : Obligations.LinkUpStartsProbation := by
  intro s f consistent m up
  have sound := consistent.sound
  have published : m.usable = m.usability := consistent.usable_eq
  have record (down : m.state = .down) (usable : Bool) (hu : usable = m.current.advisory) :
      { m.linkUp s.elapsed with usable := usable } = up := by
    have stopped : m.state.runsWindow = false := by rw [down]; rfl
    obtain ⟨pending, -⟩ := sound.windowless stopped
    rw [Monitor.linkUp_down s.elapsed down pending, hu]
  have unusable (down : m.state = .down) : m.usable = false := by
    rw [published]; simp [Monitor.usability, down]
  have usability (down : m.state = .down) : (m.linkUp s.elapsed).usability = m.current.advisory := by
    have same := congrArg Monitor.usability (record down m.current.advisory rfl)
    exact same.trans (Bool.or_false m.current.advisory)
  refine ⟨fun disabled => congrArg Host.Outcome.next ?_, fun down plain => congrArg Host.Outcome.next ?_,
    fun down advisory => congrArg Host.Outcome.next ?_⟩
  · have linkOnly : m.linkUp s.elapsed = { m with link := true } := if_neg (by simp [disabled])
    have same : m.usable = ({ m with link := true } : Monitor).usability :=
      (published.trans (m.usability_of_disabled disabled)).trans (Monitor.usability_of_disabled { m with link := true } disabled).symm
    have event : s.feedLinkUp f = s.publish f { m with link := true } .linkDown :=
      congrArg (fun k => s.publish f k .linkDown) linkOnly
    rw [event, State.publish_same s f _ _ same, ← same]
  · have same : m.usable = (m.linkUp s.elapsed).usability := by rw [unusable down, usability down, plain]
    rw [State.feedLinkUp, State.publish_same s f _ _ same, usability down, record down _ rfl]
  · rw [State.feedLinkUp, State.publish_up s f _ _ (unusable down) ((usability down).trans advisory),
      record down true advisory.symm]

/-! ### The window expiry (R80, R82 to R84, R89) -/

/-- The verdicts in the order of the table of R82. -/
theorem verdict_rejected {c : Settings} {w : Window}
    (h : c.rejectMargin < w.errored.toNat ∨ w.valid.toNat < c.minValid) : verdict c w = .rejected := if_pos h

theorem verdict_accepted {c : Settings} {w : Window}
    (h : ¬(c.rejectMargin < w.errored.toNat ∨ w.valid.toNat < c.minValid)) (ha : w.errored.toNat ≤ c.acceptMargin) :
    verdict c w = .accepted := (if_neg h).trans (if_pos ha)

theorem verdict_neutral {c : Settings} {w : Window}
    (h : ¬(c.rejectMargin < w.errored.toNat ∨ w.valid.toNat < c.minValid)) (ha : ¬w.errored.toNat ≤ c.acceptMargin) :
    verdict c w = .neutral := (if_neg h).trans (if_neg ha)

/-- A transition changes the state and the count of quarantines alone. -/
theorem Monitor.transition_kept (m : Monitor) : ∃ st k,
    m.transition = { m with state := st, counters := { m.counters with quarantines := k } } := by
  simp only [Monitor.transition]
  split_ifs
  · exact ⟨.inService, m.counters.quarantines, rfl⟩
  · exact ⟨.quarantine, satInc m.counters.quarantines, rfl⟩
  · exact ⟨m.state, m.counters.quarantines, rfl⟩

/-- The clamp of R89 as the statements put it. -/
theorem clampRun_eq (old new run : Nat) : clampRun old new run = if new ≠ old then min run (new - 1) else run := by
  simp only [clampRun, ne_eq, ite_not, eq_comm]

section Expiry

variable {s : State} {f : Feed} {w : Window} (hw : (rd s.monitors f).window = some w) (he : w.expiry ≤ s.elapsed)

include hw he

theorem State.windowExpiry_eq (j : Monitor)
    (hj : j = ((rd s.monitors f).judged (verdict (rd s.monitors f).current w)).transition) :
    s.windowExpiry f = (s.publish f j .quarantine).setMonitor f
      (({ j with usable := j.usability } : Monitor).startWindow w.expiry) := by
  have due : reached s.elapsed w.expiry = true := decide_eq_true he
  simp only [State.windowExpiry, hw, due, if_true, hj, State.publish_monitors, rd_wr_self]

/-- Settings adopted at the start of the next window, with the runs and counters that verdict and transition left
(R83, R89). -/
theorem State.windowExpiry_runs {j : Monitor} (hj : j = (rd s.monitors f).judged (verdict (rd s.monitors f).current w))
    (hc : j.current = (rd s.monitors f).current) (hp : j.pending = (rd s.monitors f).pending) :
    let m := rd s.monitors f
    let new := m.pending.getD m.current
    let m' := rd (s.windowExpiry f).monitors f
    m'.current = new ∧ m'.pending = none ∧
      m'.acceptedRun = (if new.qualify ≠ m.current.qualify then min j.acceptedRun (new.qualify - 1) else j.acceptedRun) ∧
      m'.rejectTally = (if new.disqualify ≠ m.current.disqualify then min j.rejectTally (new.disqualify - 1)
        else j.rejectTally) ∧
      m'.counters = { j.counters with quarantines := m'.counters.quarantines } := by
  obtain ⟨st, k, moved⟩ := j.transition_kept
  have record : rd (s.windowExpiry f).monitors f =
      ({ j.transition with usable := j.transition.usability } : Monitor).startWindow w.expiry := by
    rw [State.windowExpiry_eq hw he _ rfl, ← hj, State.setMonitor_monitors, rd_wr_self]
  intro m new m'
  simp only [m', new, m, record, Monitor.startWindow, Monitor.adopt_eq, moved, hc, hp, clampRun_eq, and_self]

end Expiry

/-- Settles O20: each verdict's runs and counters are those of `Monitor.judged`, clamped where adopted settings change Q or
D. -/
theorem windowVerdictUpdatesRuns : Obligations.WindowVerdictUpdatesRuns := by
  intro s f w hw he m new clampQ clampD rejected accepted neutral
  obtain ⟨a, r, c, judged⟩ := m.judged_kept (verdict m.current w)
  obtain ⟨current, pending, run, tally, counters⟩ :=
    State.windowExpiry_runs hw he rfl (by rw [judged]) (by rw [judged])
  refine ⟨s.windowExpiry f, _, rfl, rfl, current, pending, fun h => ?_, fun h => ?_, fun h => ?_⟩ <;>
    rw [run, tally, counters]
  · rw [verdict_rejected h]
    exact ⟨rfl, rfl, rfl, rfl, rfl⟩
  · rw [verdict_accepted h.1 h.2]
    exact ⟨rfl, rfl, rfl, rfl, rfl⟩
  · rw [verdict_neutral h.1 fun ha => h.2 ⟨h.1, ha⟩]
    exact ⟨rfl, rfl, rfl, rfl, rfl⟩

/-! ### What the verdict does to the feed's state (R84, R88) -/

/-- An accepted run reaches Q after an ACCEPTED window alone (R83, R84). -/
theorem Monitor.judged_qualifies (m : Monitor) (w : Window) (h1 : 1 ≤ m.current.qualify) (h15 : m.current.qualify ≤ 15) :
    m.current.qualify ≤ (m.judged (verdict m.current w)).acceptedRun ↔
      (¬(m.current.rejectMargin < w.errored.toNat ∨ w.valid.toNat < m.current.minValid) ∧
        w.errored.toNat ≤ m.current.acceptMargin) ∧ m.current.qualify ≤ m.acceptedRun + 1 := by
  by_cases hr : m.current.rejectMargin < w.errored.toNat ∨ w.valid.toNat < m.current.minValid
  · rw [verdict_rejected hr]
    simp only [Monitor.judged, hr, not_true_eq_false, false_and, iff_false]
    omega
  · by_cases ha : w.errored.toNat ≤ m.current.acceptMargin
    · rw [verdict_accepted hr ha]
      simp only [Monitor.judged, hr, ha, not_false_eq_true, true_and]
      omega
    · rw [verdict_neutral hr ha]
      simp only [Monitor.judged, ha, and_false, false_and, iff_false]
      omega

/-- A reject tally below D reaches it after a REJECTED window alone (R83, R84). -/
theorem Monitor.judged_disqualified (m : Monitor) (w : Window) (h1 : 1 ≤ m.current.disqualify)
    (h15 : m.current.disqualify ≤ 15) (ht : m.rejectTally < m.current.disqualify) :
    m.current.disqualify ≤ (m.judged (verdict m.current w)).rejectTally ↔
      (m.current.rejectMargin < w.errored.toNat ∨ w.valid.toNat < m.current.minValid) ∧
        m.current.disqualify ≤ m.rejectTally + 1 := by
  by_cases hr : m.current.rejectMargin < w.errored.toNat ∨ w.valid.toNat < m.current.minValid
  · rw [verdict_rejected hr]
    simp only [Monitor.judged, hr, true_and]
    omega
  · by_cases ha : w.errored.toNat ≤ m.current.acceptMargin
    · rw [verdict_accepted hr ha]
      simp only [Monitor.judged, hr, false_and, iff_false]
      omega
    · rw [verdict_neutral hr ha]
      simp only [Monitor.judged, hr, false_and, iff_false]
      omega

/-- With its link up and a window running, a feed is usable by its advisory setting or in service (R87). -/
theorem Monitor.usability_running {m : Monitor} (hl : m.link = true) (hs : m.state.runsWindow = true) :
    m.usability = (m.current.advisory || m.state == .inService) := by
  cases h : m.state <;> simp [h, FeedState.runsWindow] at hs <;> simp [Monitor.usability, h, hl]

section Published

variable (s : State) (f : Feed) (j k : Monitor) (cause : UnusableCause)

theorem State.publish_same_setMonitor (h : (rd s.monitors f).usable = j.usability) :
    (s.publish f j cause).setMonitor f k = s.setMonitor f k := by
  rw [State.publish_same s f j cause h, State.setMonitor_setMonitor]

theorem State.publish_up_setMonitor (h : (rd s.monitors f).usable = false) (g : j.usability = true) :
    (s.publish f j cause).setMonitor f k = { s.setMonitor f k with
      feedEvents := wr s.feedEvents f (rd s.feedEvents f + 1)
      notices := s.notices.raising [⟨.feedUsable, .feed f, 0xFFFF, 0⟩] } := by
  rw [State.publish_up s f j cause h g]
  simp only [State.setMonitor, wr_wr]

theorem State.publish_down_setMonitor (h : (rd s.monitors f).usable = true) (g : j.usability = false) :
    (s.publish f j cause).setMonitor f k = { s.setMonitor f k with
      feedEvents := wr s.feedEvents f (rd s.feedEvents f + 1)
      feedLatches := wr s.feedLatches f true
      notices := s.notices.raising [⟨.feedUnusable, .feed f, 0xFFFF, cause.code ++ (0 : Byte)⟩] } := by
  rw [State.publish_down s f j cause h g]
  simp only [State.setMonitor, wr_wr]

end Published

theorem Monitor.judged_quarantines (m : Monitor) (v : Verdict) :
    (m.judged v).counters.quarantines = m.counters.quarantines := by cases v <;> rfl

/-- A window runs only with the link up, in a state that has one (R78, R84). -/
theorem Monitor.consistent.running {m : Monitor} {w : Window} (h : m.consistent) (hw : m.window = some w) :
    m.link = true ∧ m.state.runsWindow = true := by
  obtain ⟨-, -, -, -, -, link, window, -⟩ := h.sound
  have running : m.state.runsWindow = true := by rw [← window, hw]; rfl
  exact ⟨link running, running⟩

section Moved

variable {s : State} {f : Feed} {w : Window} (hw : (rd s.monitors f).window = some w) (he : w.expiry ≤ s.elapsed)
  {j : Monitor} (hj : j = ((rd s.monitors f).judged (verdict (rd s.monitors f).current w)).transition)

include hw he hj

/-- The record after a window expiry: the transition's state and usability, and the next window (R80, R84, R87). -/
theorem State.windowExpiry_record :
    let m := rd s.monitors f
    let new := m.pending.getD m.current
    let m' := rd (s.windowExpiry f).monitors f
    s.windowExpiry f = (s.publish f j .quarantine).setMonitor f m' ∧
      m'.link = m.link ∧ m'.current = new ∧ m'.pending = none ∧
      m'.window = some { expiry := w.expiry + new.windowLength, valid := 0, errored := 0 } ∧
      m'.state = j.state ∧ m'.usable = j.usability ∧ m'.counters.quarantines = j.counters.quarantines := by
  intro m new m'
  have event := State.windowExpiry_eq hw he j hj
  have record : m' = ({ j with usable := j.usability } : Monitor).startWindow w.expiry := by
    simp only [m', event, State.setMonitor_monitors, rd_wr_self]
  obtain ⟨st, k, moved⟩ := (m.judged (verdict m.current w)).transition_kept
  obtain ⟨a, r, c, judged⟩ := m.judged_kept (verdict m.current w)
  replace moved := hj.trans moved
  rw [judged] at moved
  refine ⟨record ▸ event, ?_⟩
  simp only [record, Monitor.startWindow, Monitor.adopt_eq, new, after, moved, and_self]

omit he in
/-- The transition of R84 as the verdict calls for it. -/
theorem Monitor.transition_judged (consistent : (rd s.monitors f).consistent) :
    let m := rd s.monitors f
    let rejected := m.current.rejectMargin < w.errored.toNat ∨ w.valid.toNat < m.current.minValid
    let accepted := ¬rejected ∧ w.errored.toNat ≤ m.current.acceptMargin
    let qualifies := (m.state = .probation ∨ m.state = .quarantine) ∧ accepted ∧ m.current.qualify ≤ m.acceptedRun + 1
    let disqualified := m.state = .inService ∧ rejected ∧ m.current.disqualify ≤ m.rejectTally + 1
    j.link = true ∧ j.current = m.current ∧ j.state.runsWindow = true ∧
      (qualifies → j.state = .inService ∧ j.counters.quarantines = m.counters.quarantines) ∧
      (disqualified → j.state = .quarantine ∧ j.counters.quarantines = satInc m.counters.quarantines) ∧
      (¬qualifies → ¬disqualified → j.state = m.state ∧ j.counters.quarantines = m.counters.quarantines) := by
  intro m rejected accepted qualifies disqualified
  obtain ⟨wf, -, -, -, -, -, -, -, -, -, service⟩ := consistent.sound
  obtain ⟨-, -, -, -, -, q1, q15, d1, d15⟩ := (Settings.wellFormed_iff _).1 wf
  obtain ⟨up, running⟩ := consistent.running hw
  obtain ⟨a, r, c, judged⟩ := m.judged_kept (verdict m.current w)
  have quarantines := m.judged_quarantines (verdict m.current w)
  have first := m.judged_qualifies w q1 q15
  have second (serving : m.state = .inService) := m.judged_disqualified w d1 d15 (service serving)
  rw [judged] at hj quarantines first second
  have qualify : (m.state = .probation ∨ m.state = .quarantine) ∧ m.current.qualify ≤ a ↔ qualifies :=
    and_congr_right fun _ => first
  have disqualify : m.state = .inService ∧ m.current.disqualify ≤ r ↔ disqualified := and_congr_right second
  simp only [Monitor.transition, qualify, disqualify] at hj
  by_cases hq : qualifies
  · have served : ¬disqualified := fun hd => by
      have := hq.1
      rw [hd.1] at this
      simp at this
    rw [if_pos hq] at hj
    subst hj
    exact ⟨up, rfl, rfl, fun _ => ⟨rfl, quarantines⟩, fun hd => absurd hd served, fun hn => absurd hq hn⟩
  · rw [if_neg hq] at hj
    by_cases hd : disqualified
    · rw [if_pos hd] at hj
      subst hj
      exact ⟨up, rfl, rfl, fun hn => absurd hn hq, fun _ => ⟨rfl, congrArg satInc quarantines⟩, fun _ hn => absurd hd hn⟩
    · rw [if_neg hd] at hj
      subst hj
      exact ⟨up, rfl, running, fun hn => absurd hn hq, fun hn => absurd hn hd, fun _ _ => ⟨rfl, quarantines⟩⟩

end Moved

/-- Settles O21: the record of `windowExpiry_record` with the transition of `transition_judged`, and the effects of a
change of usability as `publish` has them. -/
theorem verdictMovesFeedState : Obligations.VerdictMovesFeedState := by
  intro s f w consistent hw he m new rejected accepted qualifies disqualified
  obtain ⟨event, link, current, pending, window, state, usable, quarantines⟩ := State.windowExpiry_record hw he rfl
  obtain ⟨up, settings, running, qualified, quarantined, stayed⟩ := Monitor.transition_judged hw rfl consistent
  have usability := Monitor.usability_running up running
  obtain ⟨linked, ran⟩ := consistent.running hw
  have published : m.usable = (m.current.advisory || m.state == .inService) :=
    consistent.usable_eq.trans (Monitor.usability_running linked ran)
  refine ⟨s.windowExpiry f, _, rfl, rfl, link, current, pending, window, fun hq => ?_, fun hd => ?_, fun hq hd => ?_,
    fun same => ?_⟩
  · obtain ⟨serving, count⟩ := qualified hq
    have on : (m.judged (verdict m.current w)).transition.usability = true := by
      rw [usability, serving]; simp
    refine ⟨state.trans serving, usable.trans on, quarantines.trans count, fun unusable => ?_⟩
    exact event.trans (State.publish_up_setMonitor s f _ _ _ unusable on)
  · obtain ⟨out, count⟩ := quarantined hd
    have advised : (m.judged (verdict m.current w)).transition.usability = m.current.advisory := by
      rw [usability, out, settings]
      exact Bool.or_false _
    refine ⟨state.trans out, usable.trans advised, quarantines.trans count, fun plain => ?_⟩
    have served : m.usable = true := by
      rw [published, hd.1]; simp
    exact event.trans (State.publish_down_setMonitor s f _ _ _ served (advised.trans plain))
  · obtain ⟨still, count⟩ := stayed hq hd
    refine ⟨state.trans still, usable.trans ?_, quarantines.trans count⟩
    rw [usability, still, settings, published]
  · exact event.trans (State.publish_same_setMonitor s f _ _ _ (same.symm.trans usable))

end Sys2Proof.Machine
end


section
/-! The statements on records and frames on the wire (sections 6.1, 6.4 to 6.6). -/

namespace Sys2Proof.Machine

/-! ### The feed settings record (R136, R138) -/

theorem settingsFlags_bits (advisory disabled : Bool) :
    let b := byteOf ((if advisory then 1 else 0) + (if disabled then 2 else 0))
    b.getLsbD 0 = advisory ∧ b.getLsbD 1 = disabled ∧ b.extractLsb' 2 6 = 0 := by
  cases advisory <;> cases disabled <;> decide

theorem settingsOfRecord_settingsRecord {c : Settings} (h : c.wellFormed = true) :
    settingsOfRecord (settingsRecord c) = c := by
  obtain ⟨-, length, valid, margins, reject, -, qualify, -, disqualify⟩ := (Settings.wellFormed_iff c).1 h
  obtain ⟨advisory, disabled, -⟩ := settingsFlags_bits c.advisory c.disabled
  have window : (word16At (settingsRecord c) 0).toNat = c.windowLength := by
    rw [show word16At (settingsRecord c) 0 = BitVec.ofNat 16 c.windowLength from word16_be16 _, BitVec.toNat_ofNat]
    omega
  have least : (word16At (settingsRecord c) 2).toNat = c.minValid := by
    rw [show word16At (settingsRecord c) 2 = BitVec.ofNat 16 c.minValid from word16_be16 _, BitVec.toNat_ofNat]
    omega
  rw [settingsOfRecord, window, least]
  change ({ windowLength := c.windowLength, minValid := c.minValid
            acceptMargin := (byteOf c.acceptMargin).toNat, rejectMargin := (byteOf c.rejectMargin).toNat
            qualify := (byteOf c.qualify).toNat, disqualify := (byteOf c.disqualify).toNat
            advisory := (byteOf _).getLsbD 0, disabled := (byteOf _).getLsbD 1 } : Settings) = c
  rw [byteOf_toNat _ (by omega), byteOf_toNat _ (by omega), byteOf_toNat _ (by omega), byteOf_toNat _ (by omega),
    advisory, disabled]

/-! ### The stream entry record (R105) -/

/-- The last three bytes of an entry's record (6.6.4). -/
def Mode.bytes : Mode → List Byte
  | .first => [0, 0, 0]
  | .preferred p => be16 (BitVec.ofNat 16 p.holdOff) ++ [byteOf p.rescueThreshold]

/-- The 23 bytes of an entry's record: the listed feeds fill up to four of them, and the mode the last three. -/
theorem entryRecord_bytes {e : Entry} (h : e.feeds.length ≤ 4) : ∃ f0 f1 f2 f3 m0 m1 m2,
    e.feeds.map feedByte ++ List.replicate (4 - e.feeds.length) 0 = [f0, f1, f2, f3] ∧ e.mode.bytes = [m0, m1, m2] ∧
      entryRecord e = [entryFlags e] ++ be16 e.tag ++ [byteOf e.feeds.length] ++ [f0, f1, f2, f3] ++ [e.origin.getD 0] ++
        be32 (BitVec.ofNat 32 e.period) ++ be16 (BitVec.ofNat 16 e.slack) ++ be16 (BitVec.ofNat 16 e.window) ++
        [byteOf e.holdLimit, byteOf e.resyncThreshold, byteOf e.placeholderLimit] ++ [m0, m1, m2] := by
  have four : (e.feeds.map feedByte ++ List.replicate (4 - e.feeds.length) 0).length = 4 := by
    simp only [List.length_append, List.length_map, List.length_replicate]
    omega
  obtain ⟨f0, f1, f2, f3, feeds⟩ := List.length_eq_four.1 four
  have three : e.mode.bytes.length = 3 := by cases e.mode <;> rfl
  obtain ⟨m0, m1, m2, mode⟩ := List.length_eq_three.1 three
  refine ⟨f0, f1, f2, f3, m0, m1, m2, feeds, mode, ?_⟩
  have padded : (e.feeds.map feedByte ++ List.replicate 4 0).take 4 = [f0, f1, f2, f3] := by
    rw [← feeds, List.take_append, List.length_map, List.take_of_length_le (by simpa using h), List.take_replicate]
    congr 2
    omega
  rw [← mode, ← padded]
  cases hm : e.mode <;> simp only [entryRecord, hm, Mode.bytes]

/-- The bits of the flags byte, for the four flags that it spells (6.6.4). -/
theorem flagBits (enabled preferred revertive origin : Bool) :
    let b := byteOf ((if enabled then 1 else 0) + (if preferred then 2 + 8 + (if revertive then 16 else 0) else 0) +
      (if origin then 4 else 0))
    b.getLsbD 0 = enabled ∧ b.getLsbD 1 = preferred ∧ b.getLsbD 2 = origin ∧ b.getLsbD 3 = preferred ∧
      b.getLsbD 4 = (preferred && revertive) ∧ b.extractLsb' 5 3 = 0 := by
  cases enabled <;> cases preferred <;> cases revertive <;> cases origin <;> decide

/-- The mode is PREFERRED. -/
def Mode.isPreferred : Mode → Bool
  | .first => false
  | .preferred _ => true

/-- The mode is PREFERRED, and returns to a better feed. -/
def Mode.returns : Mode → Bool
  | .first => false
  | .preferred p => p.revertive

theorem entryFlags_bits (e : Entry) :
    (entryFlags e).getLsbD 0 = e.enabled ∧ (entryFlags e).getLsbD 1 = e.mode.isPreferred ∧
      (entryFlags e).getLsbD 2 = e.origin.isSome ∧ (entryFlags e).getLsbD 3 = e.mode.isPreferred ∧
      (entryFlags e).getLsbD 4 = e.mode.returns ∧ (entryFlags e).extractLsb' 5 3 = 0 := by
  cases hm : e.mode with
  | first =>
    simp only [entryFlags, hm]
    exact flagBits e.enabled false false e.origin.isSome
  | preferred p =>
    simp only [entryFlags, hm]
    exact flagBits e.enabled true p.revertive e.origin.isSome

theorem Entry.wellFormed_iff (e : Entry) : e.wellFormed = true ↔
    e.inRange = true ∧ (1 ≤ e.feeds.length ∧ e.feeds.length ≤ 4 ∧ e.feeds.Nodup) ∧ e.tag ≠ 0xFFFF := by
  simp only [Entry.wellFormed, feedListOk, Config.managementTag, Bool.and_eq_true, decide_eq_true_eq, bne_iff_ne, and_assoc]

theorem Entry.inRange_iff (e : Entry) : e.inRange = true ↔
    10 ≤ e.period ∧ e.period ≤ 1000000 ∧ e.slack ≤ 65535 ∧ 1 ≤ e.window ∧ e.window ≤ 1023 ∧ e.holdLimit ≤ 8 ∧
      1 ≤ e.resyncThreshold ∧ e.resyncThreshold ≤ 7 ∧ e.placeholderLimit ≤ 255 ∧
      ∀ p, e.mode = .preferred p → p.holdOff ≤ 60000 ∧ 1 ≤ p.rescueThreshold ∧ p.rescueThreshold ≤ 15 := by
  cases hm : e.mode <;>
    simp [Entry.inRange, hm, SelectionPart.inRange, and_assoc]

theorem filterMap_feedOf (feeds : List Feed) : (feeds.map feedByte).filterMap feedOf = feeds := by
  simp [List.filterMap_map, feedOf_feedByte]

/-- The fields of an entry's record, at their offsets (6.6.4). -/
theorem entryRecord_fields {e : Entry} (h : e.feeds.length ≤ 4) :
    let r := entryRecord e
    byteAt r 0 = entryFlags e ∧ word16At r 1 = e.tag ∧ byteAt r 3 = byteOf e.feeds.length ∧
      ((r.drop 4).take 4).take e.feeds.length = e.feeds.map feedByte ∧ byteAt r 8 = e.origin.getD 0 ∧
      word32At r 9 = BitVec.ofNat 32 e.period ∧ word16At r 13 = BitVec.ofNat 16 e.slack ∧
      word16At r 15 = BitVec.ofNat 16 e.window ∧ byteAt r 17 = byteOf e.holdLimit ∧
      byteAt r 18 = byteOf e.resyncThreshold ∧ byteAt r 19 = byteOf e.placeholderLimit ∧
      ∀ p, e.mode = .preferred p → word16At r 20 = BitVec.ofNat 16 p.holdOff ∧ byteAt r 22 = byteOf p.rescueThreshold := by
  obtain ⟨f0, f1, f2, f3, m0, m1, m2, feeds, mode, record⟩ := entryRecord_bytes h
  intro r
  have listed : [f0, f1, f2, f3].take e.feeds.length = e.feeds.map feedByte := by
    rw [← feeds, List.take_left' (by simp)]
  simp only [r, record]
  refine ⟨rfl, word16_be16 _, rfl, listed, rfl, word32_be32 _, word16_be16 _, word16_be16 _, rfl, rfl, rfl, ?_⟩
  intro p hp
  rw [hp] at mode
  obtain ⟨rfl, rfl, rfl⟩ : (BitVec.ofNat 16 p.holdOff).extractLsb' 8 8 = m0 ∧
      (BitVec.ofNat 16 p.holdOff).extractLsb' 0 8 = m1 ∧ byteOf p.rescueThreshold = m2 := by
    simpa [Mode.bytes, be16] using mode
  exact ⟨word16_be16 _, rfl⟩

/-- The fields of an entry's record read back (6.6.4). -/
theorem entryOfRecord_entryRecord {e : Entry} (h : e.wellFormed = true) : entryOfRecord (entryRecord e) e.feeds = e := by
  obtain ⟨range, ⟨-, four, -⟩, -⟩ := (Entry.wellFormed_iff e).1 h
  obtain ⟨-, period, slack, -, window, hold, -, resync, placeholder, selection⟩ := (Entry.inRange_iff e).1 range
  obtain ⟨enabled, preferred, origin, -, returns, -⟩ := entryFlags_bits e
  obtain ⟨flags, tag, -, -, first, rate, late, near, held, again, missing, part⟩ := entryRecord_fields four
  have period' : (BitVec.ofNat 32 e.period).toNat = e.period := by rw [BitVec.toNat_ofNat]; omega
  have slack' : (BitVec.ofNat 16 e.slack).toNat = e.slack := by rw [BitVec.toNat_ofNat]; omega
  have window' : (BitVec.ofNat 16 e.window).toNat = e.window := by rw [BitVec.toNat_ofNat]; omega
  have origin' : (if e.origin.isSome = true then some (e.origin.getD 0) else none) = e.origin := by
    cases e.origin <;> rfl
  have mode' : (if e.mode.isPreferred = true then Mode.preferred (selectionOfRecord (entryRecord e)) else .first) =
      e.mode := by
    cases hm : e.mode with
    | first => rfl
    | preferred p =>
      obtain ⟨wait, threshold⟩ := part p hm
      obtain ⟨short, -, small⟩ := selection p hm
      have wait' : (BitVec.ofNat 16 p.holdOff).toNat = p.holdOff := by rw [BitVec.toNat_ofNat]; omega
      have returns' : (entryFlags e).getLsbD 4 = p.revertive := by rw [returns, hm]; rfl
      simp only [Mode.isPreferred, if_true, selectionOfRecord, flags, returns', wait, threshold, wait',
        byteOf_toNat p.rescueThreshold (by omega)]
  simp only [entryOfRecord, flags, enabled, preferred, origin, tag, first, rate, late, near, held, again, missing, period',
    slack', window', origin', mode', byteOf_toNat e.holdLimit (by omega), byteOf_toNat e.resyncThreshold (by omega),
    byteOf_toNat e.placeholderLimit (by omega)]

theorem entryRecord_length {e : Entry} (h : e.feeds.length ≤ 4) : (entryRecord e).length = 23 := by
  obtain ⟨f0, f1, f2, f3, m0, m1, m2, -, -, record⟩ := entryRecord_bytes h
  rw [record]
  rfl

/-- The record of a well-formed entry passes its check and spells the entry (R105). -/
theorem checkRecord_entryRecord {e : Entry} (h : e.wellFormed = true) : checkRecord (entryRecord e) = .ok e := by
  obtain ⟨range, ⟨one, four, distinct⟩, reserved⟩ := (Entry.wellFormed_iff e).1 h
  obtain ⟨flags, tag, count, listed, -⟩ := entryRecord_fields four
  obtain ⟨-, preferred, -, part, -⟩ := entryFlags_bits e
  have count' : (byteAt (entryRecord e) 3).toNat = e.feeds.length := by rw [count, byteOf_toNat _ (by omega)]
  have feeds : feedBytes (entryRecord e) = e.feeds.map feedByte := by rw [feedBytes, count', listed]
  have named : (e.feeds.map feedByte).any (fun b => (feedOf b).isNone) = false := by
    simp [feedOf_feedByte]
  have ok : feedListOk e.feeds = true := by simp [feedListOk, one, four, distinct]
  have tag' : ¬word16At (entryRecord e) 1 = Config.managementTag := by rw [tag]; exact reserved
  rw [checkRecord, if_neg, if_neg, if_neg tag', feeds, filterMap_feedOf, entryOfRecord_entryRecord h, if_pos range]
  · rw [flags, preferred, part]; simp
  · rw [feeds, filterMap_feedOf, named, ok, count']
    simp only [Bool.not_true, Bool.or_false, Bool.or_eq_true, decide_eq_true_eq]
    omega

/-- Settles O15: the fields of both records read back one by one. -/
theorem recordsReadBackAsSent : Obligations.RecordsReadBackAsSent := by
  refine ⟨fun e h => ⟨entryRecord_length ((Entry.wellFormed_iff e).1 h).2.1.2.1, checkRecord_entryRecord h⟩,
    fun r e h => ⟨checkRecord_wellFormed r e h, checkRecord_entryRecord (checkRecord_wellFormed r e h)⟩,
    fun c h => ⟨rfl, settingsOfRecord_settingsRecord h⟩⟩

/-! ### Frames the part sends (R97, R101, R102) -/

section Wire

variable (f : Frame)

theorem Frame.wire_length : f.wire.length = 12 + f.payload.length := by
  rw [Frame.wire, List.length_append, f.body_length]
  change 8 + _ + 4 = _
  omega

/-- The fields of a frame's header, at their offsets (6.6.1). -/
theorem Frame.wire_header : byteAt f.wire 0 = f.kind.code ∧ byteAt f.wire 1 = f.marks ∧ word16At f.wire 2 = f.tag ∧
    word16At f.wire 4 = f.seq ∧ byteAt f.wire 6 = f.origin := by
  have long (k : Nat) (h : k < 8) : byteAt f.wire k = byteAt f.body k :=
    f.byteAt_wire k (by rw [f.body_length]; omega)
  refine ⟨long 0 (by decide), long 1 (by decide), ?_, ?_, long 6 (by decide)⟩
  · rw [word16At, long 2 (by decide), long 3 (by decide)]
    exact word16_be16 f.tag
  · rw [word16At, long 4 (by decide), long 5 (by decide)]
    exact word16_be16 f.seq

theorem Frame.wire_payload (h : f.payload.length ≤ 240) : framePayload f.wire = f.payload := by
  rw [framePayload, f.wire_payloadLength h]
  change ((f.payload ++ be32 (checkWord f.body)).take f.payload.length) = f.payload
  exact List.take_left' rfl

/-- A frame the part sends passes the tests of R97: its length and its check word are those of its own fields. -/
theorem Frame.wire_valid (h : f.payload.length ≤ 240) : frameErrored f.wire = false := by
  have size : (byteAt f.wire 7).toNat = f.payload.length := f.wire_payloadLength h
  have body : f.wire.take f.body.length = f.body := List.take_left' rfl
  rw [← Bool.not_eq_true, frameErrored_iff, size, f.wire_length, ← f.body_length, f.wire_checkWord, body]
  simp only [ne_eq, not_true_eq_false, or_false]
  omega

end Wire

/-- The bits of the marks byte of a released copy (R102). -/
theorem marksByte_bits (feed : Feed) (rescued gap resync seek : Bool) :
    let b := marksByte feed rescued false gap resync seek
    (b.extractLsb' 0 2).toNat = feed.val ∧ b.getLsbD 2 = rescued ∧ b.getLsbD 3 = false ∧ b.getLsbD 4 = gap ∧
      b.getLsbD 5 = resync ∧ b.getLsbD 6 = seek ∧ b.getLsbD 7 = false := by
  revert feed rescued gap resync seek
  decide

/-- Settles O16: the frame's own lemmas, and the marks byte by its bits. -/
theorem sentFramesAreValid : Obligations.SentFramesAreValid := by
  refine ⟨fun f h => ?_, fun c rescued gap resync seek => ?_⟩
  · obtain ⟨kind, marks, tag, seq, origin⟩ := f.wire_header
    exact ⟨f.wire_length, f.wire_valid h, kind, marks, tag, seq, origin, f.wire_payload h⟩
  · exact ⟨rfl, rfl, rfl, rfl, rfl, marksByte_bits c.feed rescued gap resync seek⟩

end Sys2Proof.Machine
end


section
/-! The statement on the layouts of replies, records, subjects and codes (sections 6.5, 6.6, 9.1, 9.2 and 11.1). -/

namespace Sys2Proof.Machine

/-! ### Fields one behind the other (R132) -/

/-- Each field begins where the one before it ends, the first at offset `n`. -/
def contiguous : Nat → List (Nat × List Byte) → Prop
  | _, [] => True
  | n, x :: rest => x.1 = n ∧ contiguous (n + x.2.length) rest

theorem fieldsAt_contiguous (fields : List (Nat × List Byte)) (pre tail : List Byte) (h : contiguous pre.length fields) :
    fieldsAt (pre ++ ((fields.map (·.2)).flatten ++ tail)) fields := by
  induction fields generalizing pre with
  | nil => exact fun _ hx => nomatch hx
  | cons x rest ih =>
    obtain ⟨start, next⟩ := h
    intro y hy
    rcases List.mem_cons.1 hy with rfl | hy
    · simp only [start, List.map_cons, List.flatten_cons, List.append_assoc, List.drop_left', List.take_left']
    · have := ih (pre ++ x.2) (by rwa [List.length_append]) y hy
      simpa only [List.map_cons, List.flatten_cons, List.append_assoc] using this

/-- A reply's data are its fields one behind the other, and a rest. -/
theorem fieldsAt_of_eq {data tail : List Byte} {fields : List (Nat × List Byte)}
    (h : data = (fields.map (·.2)).flatten ++ tail) (hc : contiguous 0 fields) : fieldsAt data fields := by
  rw [h]
  exact fieldsAt_contiguous fields [] tail hc

theorem be16_length (w : BitVec 16) : (be16 w).length = 2 := rfl

theorem be32_length (w : BitVec 32) : (be32 w).length = 4 := rfl

/-! ### STATUS (R133) -/

theorem Monitor.statusByte_eq (m : Monitor) : m.statusByte = m.state.code + if m.usable then 0x80 else 0 := by
  simp only [Monitor.statusByte]
  cases m.state <;> cases m.usable <;> decide

theorem statusData_layout (s : State) : s.statusData.length = 50 ∧ fieldsAt s.statusData [
    (0, [0x42, 0x56, 1]), (3, be32 s.generation), (7, [s.live.code, s.engine.code]),
    (9, [byteOf s.stagingList.length, flagByte s.session.isSome]), (11, be16 ((s.session.map (·.token)).getD 0)),
    (13, be16 (BitVec.ofNat 16 s.pool.free)), (15, [flagByte s.pool.pressure]),
    (16, be16 (BitVec.ofNat 16 s.dataQueue.length)), (18, [byteOf s.delivery.controlQueue.length]),
    (19, [byteOf s.delivery.replyWait.length]), (20, [byteOf s.notices.queue.length]), (21, be16 s.notices.lost),
    (23, allFeeds.map fun f => (rd s.monitors f).state.code + if (rd s.monitors f).usable then 0x80 else 0),
    (27, [byteOf (allFeeds.filter (rd s.feedLatches)).length]),
    (28, be16 (BitVec.ofNat 16 (allSlots.filter (rd s.streamLatches)).length)), (30, be32 s.partTime),
    (34, be32 s.delivery.errored), (38, be32 s.delivery.foreign), (42, be32 s.delivery.flushed),
    (46, be32 s.inboxOverflows)] := by
  have four : allFeeds.length = 4 := rfl
  refine ⟨?_, fieldsAt_of_eq (tail := []) ?_ ?_⟩
  · delta State.statusData
    simp only [List.length_append, List.length_map, be16_length, be32_length, four, List.length_cons, List.length_nil]
  · delta State.statusData
    simp only [Monitor.statusByte_eq, setLatches_eq, List.map_cons, List.map_nil, List.flatten_cons,
      List.flatten_nil, List.append_nil, List.append_assoc]
    cases h : s.session <;> simp only [State.stagingList, h] <;> rfl
  · simp only [contiguous, be16_length, be32_length, List.length_map, four, List.length_cons, List.length_nil, Nat.reduceAdd,
      and_self]

/-! ### READ_FEED and READ_NOTICES (R136, R137) -/

theorem settingsRecord_length (c : Settings) : (settingsRecord c).length = 9 := rfl

theorem FeedCounters.bytes_length (k : FeedCounters) : k.bytes.length = 36 := rfl

theorem readFeedData_layout (s : State) (f : Feed) : let m := rd s.monitors f
    let w := m.window.getD { expiry := 0, valid := 0, errored := 0 }
    (s.readFeedData f).length = 67 ∧ fieldsAt (s.readFeedData f) [
      (0, [feedByte f]), (1, settingsRecord m.current), (10, [flagByte m.pending.isSome]),
      (11, (m.pending.map settingsRecord).getD (List.replicate 9 0)),
      (20, [m.state.code, flagByte m.link, flagByte m.usable, byteOf m.acceptedRun, byteOf m.rejectTally]),
      (25, [flagByte m.window.isSome]), (26, be16 w.valid), (28, be16 w.errored),
      (30, [flagByte (rd s.feedLatches f)]), (31, m.counters.bytes)] := by
  intro m w
  have data : s.readFeedData f = [feedByte f] ++ settingsRecord m.current ++ [flagByte m.pending.isSome] ++
      (m.pending.map settingsRecord).getD (List.replicate 9 0) ++
      [m.state.code, flagByte m.link, flagByte m.usable, byteOf m.acceptedRun, byteOf m.rejectTally] ++
      [flagByte m.window.isSome] ++ be16 w.valid ++ be16 w.errored ++ [flagByte (rd s.feedLatches f)] ++
      m.counters.bytes := by
    cases hp : m.pending <;> cases hw : m.window <;> simp only [State.readFeedData, m, w, hp, hw] <;> rfl
  have nine : ((m.pending.map settingsRecord).getD (List.replicate 9 0)).length = 9 := by
    cases m.pending <;> rfl
  refine ⟨?_, fieldsAt_of_eq (tail := []) ?_ ?_⟩
  · simp only [data, List.length_append, nine, settingsRecord_length, FeedCounters.bytes_length]
    rfl
  · simp only [data, List.map_cons, List.map_nil, List.flatten_cons, List.flatten_nil, List.append_nil, List.append_assoc]
  · simp only [contiguous, nine, settingsRecord_length, be16_length, List.length_cons, List.length_nil, Nat.reduceAdd,
      and_self]

theorem readNoticesData_layout (s : State) : s.readNoticesData.length = 9 ∧ fieldsAt s.readNoticesData [
    (0, [byteOf s.notices.queue.length, byteOf s.notices.credits, byteOf s.notices.creditMax]),
    (3, be16 (BitVec.ofNat 16 s.notices.refillInterval)), (5, be16 s.notices.mask), (7, be16 s.notices.lost)] := by
  refine ⟨rfl, fieldsAt_of_eq (tail := []) ?_ (by simp [contiguous, be16])⟩
  simp [State.readNoticesData, be16]

/-! ### RUNTIME (R134, R135) -/

/-- A selector part that spells the bytes of an absent one (R135). -/
def Selector.absent : Selector :=
  { state := .noFeed, active := none, holdOff := none, rescueRun := none, reviewPending := false }

theorem selectorBytes_eq (o : Option Selector) : let q := o.getD Selector.absent
    selectorBytes o = [flagByte o.isSome, q.state.code, feedOrNone q.active] ++
      (flagByte q.holdOff.isSome :: be32 (partTimeOf (q.holdOff.getD 0))) ++
      [feedOrNone (q.rescueRun.map (·.feed)), byteOf ((q.rescueRun.map (·.count)).getD 0)] ++ [flagByte q.reviewPending] := by
  cases o with
  | none => rfl
  | some q =>
    simp only [selectorBytes, Option.getD_some, Option.isSome_some, optionTime]
    cases q.rescueRun <;> rfl

theorem candidateBytes_eq (o : Option Candidate) : let k := o.getD { seq := 0, count := 0 }
    (match o with
     | some k => [1] ++ be16 k.seq ++ [byteOf k.count]
     | none => [0, 0, 0, 0]) = flagByte o.isSome :: be16 k.seq ++ [byteOf k.count] := by
  cases o <;> rfl

theorem runtimeBytes_layout (r : Runtime) (latch : Bool) :
    let q := r.selector.getD { state := .noFeed, active := none, holdOff := none, rescueRun := none, reviewPending := false }
    let k := r.candidate.getD { seq := 0, count := 0 }
    (runtimeBytes r latch).length = 28 + 3 * r.hold.length ∧ fieldsAt (runtimeBytes r latch) [
      (0, [r.mergeState.code]), (1, flagByte r.nes.isSome :: be16 (r.nes.getD 0)),
      (4, flagByte r.candidate.isSome :: be16 k.seq ++ [byteOf k.count]),
      (8, flagByte r.due.isSome :: be32 (partTimeOf (r.due.getD 0))),
      (13, [byteOf r.placeholderRun, flagByte r.gapMark, flagByte latch]),
      (16, [flagByte r.selector.isSome, q.state.code, feedOrNone q.active]),
      (19, flagByte q.holdOff.isSome :: be32 (partTimeOf (q.holdOff.getD 0))),
      (24, [feedOrNone (q.rescueRun.map (·.feed)), byteOf ((q.rescueRun.map (·.count)).getD 0)]),
      (26, [flagByte q.reviewPending, byteOf r.hold.length]),
      (28, r.hold.flatMap fun h => be16 h.seq ++ [feedByte h.feed])] := by
  intro q k
  have data : runtimeBytes r latch = [r.mergeState.code] ++ (flagByte r.nes.isSome :: be16 (r.nes.getD 0)) ++
      (flagByte r.candidate.isSome :: be16 k.seq ++ [byteOf k.count]) ++
      (flagByte r.due.isSome :: be32 (partTimeOf (r.due.getD 0))) ++
      [byteOf r.placeholderRun, flagByte r.gapMark, flagByte latch] ++
      [flagByte r.selector.isSome, q.state.code, feedOrNone q.active] ++
      (flagByte q.holdOff.isSome :: be32 (partTimeOf (q.holdOff.getD 0))) ++
      [feedOrNone (q.rescueRun.map (·.feed)), byteOf ((q.rescueRun.map (·.count)).getD 0)] ++
      [flagByte q.reviewPending, byteOf r.hold.length] ++ r.hold.flatMap fun h => be16 h.seq ++ [feedByte h.feed] := by
    rw [runtimeBytes, selectorBytes_eq]
    cases hc : r.candidate <;> simp only [k, hc, optionTime, List.append_assoc] <;> rfl
  have held : (r.hold.flatMap fun h => be16 h.seq ++ [feedByte h.feed]).length = 3 * r.hold.length := by
    induction r.hold with
    | nil => rfl
    | cons h rest ih =>
      simp only [List.flatMap_cons, List.length_append, ih, List.length_cons, List.length_nil, be16_length]
      omega
  refine ⟨?_, fieldsAt_of_eq (tail := []) ?_ ?_⟩
  · simp only [data, List.length_append, held, List.length_cons, List.length_nil, be16_length, be32_length]
  · simp only [data, List.map_cons, List.map_nil, List.flatten_cons, List.flatten_nil, List.append_nil, List.append_assoc]
  · simp only [contiguous, List.length_append, List.length_cons, List.length_nil, be16_length, be32_length, Nat.reduceAdd,
      and_self]

/-! ### Records (R105, R138) -/

theorem entryRecord_layout {e : Entry} (h : e.wellFormed = true) : fieldsAt (entryRecord e) [
    (1, be16 e.tag ++ [byteOf e.feeds.length]), (4, e.feeds.map feedByte), (8, [e.origin.getD 0]),
    (9, be32 (BitVec.ofNat 32 e.period)), (13, be16 (BitVec.ofNat 16 e.slack)), (15, be16 (BitVec.ofNat 16 e.window)),
    (17, [byteOf e.holdLimit, byteOf e.resyncThreshold, byteOf e.placeholderLimit]), (20, e.mode.bytes)] := by
  obtain ⟨-, ⟨-, four, -⟩, -⟩ := (Entry.wellFormed_iff e).1 h
  obtain ⟨f0, f1, f2, f3, m0, m1, m2, feeds, mode, record⟩ := entryRecord_bytes four
  have all : fieldsAt (entryRecord e) [(0, [entryFlags e]), (1, be16 e.tag ++ [byteOf e.feeds.length]),
      (4, [f0, f1, f2, f3]), (8, [e.origin.getD 0]), (9, be32 (BitVec.ofNat 32 e.period)),
      (13, be16 (BitVec.ofNat 16 e.slack)), (15, be16 (BitVec.ofNat 16 e.window)),
      (17, [byteOf e.holdLimit, byteOf e.resyncThreshold, byteOf e.placeholderLimit]), (20, e.mode.bytes)] := by
    refine fieldsAt_of_eq (tail := []) ?_ ?_
    · simp only [record, mode, List.map_cons, List.map_nil, List.flatten_cons, List.flatten_nil, List.append_nil,
        List.append_assoc]
    · simp only [contiguous, List.length_append, List.length_cons, List.length_nil, be16_length, be32_length,
        Nat.reduceAdd, and_self]
  have listed : ((entryRecord e).drop 4).take (e.feeds.map feedByte).length = e.feeds.map feedByte := by
    obtain ⟨-, -, -, fed, -⟩ := entryRecord_fields four
    rw [List.length_map]
    rw [List.take_take, Nat.min_eq_left four] at fed
    exact fed
  intro x hx
  simp only [List.mem_cons, List.not_mem_nil, or_false] at hx
  rcases hx with rfl | rfl | rfl | rfl | rfl | rfl | rfl | rfl
  case inr.inl => exact listed
  all_goals exact all _ (by simp)

theorem Mode.isPreferred_iff (m : Mode) : m.isPreferred = true ↔ m ≠ .first := by cases m <;> simp [Mode.isPreferred]

theorem Mode.returns_iff (m : Mode) : m.returns = true ↔ ∃ p, m = .preferred p ∧ p.revertive = true := by
  cases m <;> simp [Mode.returns]

theorem entryRecord_flags {e : Entry} (h : e.wellFormed = true) :
    (byteAt (entryRecord e) 0).getLsbD 0 = e.enabled ∧ (byteAt (entryRecord e) 0).getLsbD 2 = e.origin.isSome ∧
      ((byteAt (entryRecord e) 0).getLsbD 1 = true ↔ e.mode ≠ .first) ∧
      ((byteAt (entryRecord e) 0).getLsbD 3 = true ↔ e.mode ≠ .first) ∧
      ((byteAt (entryRecord e) 0).getLsbD 4 = true ↔ ∃ p, e.mode = .preferred p ∧ p.revertive = true) ∧
      (byteAt (entryRecord e) 0).extractLsb' 5 3 = 0 := by
  obtain ⟨-, ⟨-, four, -⟩, -⟩ := (Entry.wellFormed_iff e).1 h
  obtain ⟨flags, -⟩ := entryRecord_fields four
  obtain ⟨enabled, preferred, origin, part, returns, rest⟩ := entryFlags_bits e
  rw [flags, enabled, preferred, origin, part, returns, Mode.isPreferred_iff, Mode.returns_iff]
  exact ⟨rfl, rfl, Iff.rfl, Iff.rfl, Iff.rfl, rest⟩

theorem settingsRecord_layout (c : Settings) : fieldsAt (settingsRecord c) [
    (0, be16 (BitVec.ofNat 16 c.windowLength)), (2, be16 (BitVec.ofNat 16 c.minValid)),
    (4, [byteOf c.acceptMargin, byteOf c.rejectMargin, byteOf c.qualify, byteOf c.disqualify])] :=
  fieldsAt_of_eq (tail := [byteOf ((if c.advisory then 1 else 0) + (if c.disabled then 2 else 0))]) rfl
    ⟨rfl, rfl, rfl, trivial⟩

/-! ### Counters and codes -/

theorem StreamCounters.bytes_eq (k : StreamCounters) : k.bytes = [k.delivered, k.rescued, k.placeholders, k.suppressed,
    k.gapEvents, k.lostSequences, k.lateDuplicates, k.outOfWindow, k.resyncs, k.strayCopies, k.foreignCopies,
    k.noBufferDrops, k.undeliverable].flatMap be32 := by
  simp only [StreamCounters.bytes, List.flatMap_cons, List.flatMap_nil, List.append_nil, List.append_assoc]

theorem FeedCounters.bytes_eq (k : FeedCounters) : k.bytes = [k.valid, k.errored, k.unknownTag, k.misdirected,
    k.unusableDrops, k.windowsAccepted, k.windowsNeutral, k.windowsRejected, k.quarantines].flatMap be32 := by
  simp only [FeedCounters.bytes, List.flatMap_cons, List.flatMap_nil, List.append_nil, List.append_assoc]

theorem feedByte_toNat (f : Feed) : (feedByte f).toNat = f.val := byteOf_toNat _ (by omega)

theorem slotByte_toNat (i : Slot) : (slotByte i).toNat = i.val := byteOf_toNat _ (by omega)

/-- Settles O46: the layout lemma of each reply and record, and the codes by their definitions. -/
theorem replyDataFollowTheirLayouts : Obligations.ReplyDataFollowTheirLayouts := by
  refine ⟨statusData_layout, readFeedData_layout, readNoticesData_layout, runtimeBytes_layout, StreamCounters.bytes_eq,
    FeedCounters.bytes_eq, fun e h => ⟨entryRecord_layout h, entryRecord_flags h⟩, fun c => ⟨settingsRecord_layout c,
    settingsFlags_bits c.advisory c.disabled⟩, fun _ => rfl, fun _ => rfl, fun _ => rfl, rfl, rfl, feedByte_toNat,
    slotByte_toNat, rfl, fun _ => rfl, fun _ => rfl, fun _ => rfl, rfl, rfl, fun _ => rfl, rfl, rfl, rfl, rfl, rfl, rfl,
    fun _ _ _ => rfl, rfl, rfl, rfl⟩

end Sys2Proof.Machine
end


section
/-! The statements on SET_FEED (R89, R90, R138) and on prepare and sync (R151, R155). -/

namespace Sys2Proof.Machine

/-! ### The arguments of SET_FEED (R138) -/

theorem byteAt_tail (b : Byte) (l : List Byte) (k : Nat) : byteAt (b :: l) (k + 1) = byteAt l k := rfl

/-- Ten bytes that name no feed or spell a setting out of range are refused. -/
theorem setFeedArgs_none {args : List Byte} (h : args.length = 10)
    (bad : 3 < (byteAt args 0).toNat ∨ (word16At args 1).toNat < 100 ∨ (byteAt args 6).toNat < (byteAt args 5).toNat ∨
      (byteAt args 7).toNat = 0 ∨ 15 < (byteAt args 7).toNat ∨ (byteAt args 8).toNat = 0 ∨ 15 < (byteAt args 8).toNat) :
    setFeedArgs args = none := by
  obtain ⟨b, record, rfl⟩ := List.exists_cons_of_length_pos (show 0 < args.length by omega)
  rw [setFeedArgs, if_pos h]
  rcases bad with feed | bad
  · rw [feedOf_none feed]
  · have refused : ¬(settingsOfRecord record).inRange = true := by
      rw [show (settingsOfRecord record).inRange = (settingsOfRecord record).wellFormed from rfl, Settings.wellFormed_iff]
      rintro ⟨length, -, -, margins, -, q1, q15, d1, d15⟩
      change 100 ≤ (word16At (b :: record) 1).toNat at length
      change (byteAt (b :: record) 5).toNat ≤ (byteAt (b :: record) 6).toNat at margins
      change 1 ≤ (byteAt (b :: record) 7).toNat at q1
      change (byteAt (b :: record) 7).toNat ≤ 15 at q15
      change 1 ≤ (byteAt (b :: record) 8).toNat at d1
      change (byteAt (b :: record) 8).toNat ≤ 15 at d15
      omega
    split
    · exact if_neg refused
    · rfl

theorem setFeedArgs_some {args : List Byte} {f : Feed} {p : Settings} (h : args = feedByte f :: settingsRecord p)
    (hp : p.wellFormed = true) : setFeedArgs args = some (f, p) := by
  subst h
  have feed : feedOf (byteAt (feedByte f :: settingsRecord p) 0) = some f := feedOf_feedByte f
  have record : settingsOfRecord ((feedByte f :: settingsRecord p).drop 1) = p := settingsOfRecord_settingsRecord hp
  rw [setFeedArgs, if_pos (by rfl), feed]
  simp only [record]
  exact if_pos hp

/-! ### The monitor takes its settings (R89, R90, R138) -/

/-- The settings of a DISABLED or DOWN feed do not make it usable (R87). -/
theorem Monitor.usability_stopped {m : Monitor} (h : m.state.runsWindow = false) : m.usability = false := by
  cases hs : m.state <;> simp [hs, FeedState.runsWindow] at h <;> simp [Monitor.usability, hs]

/-- A window that starts with nothing pending leaves the settings as they are (R80). -/
theorem Monitor.startWindow_unpending {m : Monitor} (now : Moment) (h : m.pending = none) : m.startWindow now =
    { m with window := some { expiry := now + m.current.windowLength, valid := 0, errored := 0 } } := by
  simp only [Monitor.startWindow, Monitor.adopt, h, after]

section Settings

variable {s : State} {f : Feed} {p : Settings}

theorem State.applySettings_enabled (h : ¬(p.disabled = true ∧ (rd s.monitors f).current.disabled = false)) :
    s.applySettings f p = s.publish f ((rd s.monitors f).set s.elapsed p) (setFeedCause p) := by
  have stays : ¬(p.disabled && !(rd s.monitors f).current.disabled) = true := by simpa using h
  simp only [State.applySettings, if_neg stays]

variable (consistent : (rd s.monitors f).consistent)

include consistent

/-- With no window running the settings are adopted at once (R89). -/
theorem State.applySettings_adopted (hp : p.disabled = (rd s.monitors f).current.disabled)
    (hw : (rd s.monitors f).window = none) :
    s.applySettings f p = s.setMonitor f { rd s.monitors f with current := p, pending := none } := by
  obtain ⟨-, -, -, -, -, -, window, -⟩ := consistent.sound
  have idle : (rd s.monitors f).state.runsWindow = false := by rw [← window, hw]; rfl
  obtain ⟨-, -, run, tally⟩ := consistent.sound.windowless idle
  have out : (rd s.monitors f).usable = false := consistent.usable_eq.trans (Monitor.usability_stopped idle)
  have still : ({ rd s.monitors f with current := p, pending := none } : Monitor).usability = false :=
    Monitor.usability_stopped idle
  rw [State.applySettings_enabled (by rw [hp]; simp), Monitor.set_stopped _ hp hw run tally,
    State.publish_same _ _ _ _ (out.trans still.symm), still, ← out]

/-- With a window running the settings wait, but advisory acts at once (R89, R90; log 8). -/
theorem State.applySettings_waiting (hp : p.disabled = (rd s.monitors f).current.disabled)
    (hw : (rd s.monitors f).window.isSome = true) :
    let m := rd s.monitors f
    let waits := { m with pending := some p, current := { m.current with advisory := p.advisory } }
    s.applySettings f p = s.publish f waits .quarantine ∧
      waits.usability = (p.advisory || m.state == .inService) ∧ m.usable = (m.current.advisory || m.state == .inService) := by
  intro m waits
  obtain ⟨w, hw'⟩ := Option.isSome_iff_exists.1 hw
  obtain ⟨link, running⟩ := consistent.running hw'
  obtain ⟨-, -, -, disabled, -⟩ := consistent.sound
  have enabled : p.disabled = false := by
    rw [hp]
    by_contra on
    rw [disabled.2 (by simpa using on)] at running
    cases running
  refine ⟨?_, Monitor.usability_running link running, consistent.usable_eq.trans (Monitor.usability_running link running)⟩
  rw [State.applySettings_enabled (by rw [enabled]; simp), Monitor.set_running _ hp hw, hp, setFeedCause, enabled]
  rfl

omit consistent in
/-- A disable abandons the window, the store and the runs (R90). -/
theorem State.applySettings_disabled (hp : p.disabled = true) (hm : (rd s.monitors f).current.disabled = false) :
    let m := rd s.monitors f
    let off := { m with state := .disabled, window := none, acceptedRun := 0, rejectTally := 0, current := p, pending := none }
    s.applySettings f p = (s.setPort f { rd s.ports f with receiveStore := [] }).publish f off .disable ∧
      off.usability = false := by
  intro m off
  refine ⟨?_, Monitor.usability_of_disabled _ rfl⟩
  simp only [State.applySettings, setFeedCause, hp, hm, Bool.not_false, Bool.and_self, if_true]
  rw [Monitor.set_disabling _ hp hm]

/-- An enable takes the feed to DOWN, or to PROBATION with its first window (R90). -/
theorem State.applySettings_enabling (hp : p.disabled = false) (hm : (rd s.monitors f).current.disabled = true) :
    let m := rd s.monitors f
    let on := { m with
      state := .probation, current := p, pending := none
      window := some { expiry := s.elapsed + p.windowLength, valid := 0, errored := 0 } }
    m.usable = false ∧ (m.link = false → s.applySettings f p =
        s.setMonitor f { m with state := .down, current := p, pending := none }) ∧
      (m.link = true → s.applySettings f p = s.publish f on (setFeedCause p) ∧ on.usability = p.advisory) := by
  intro m on
  obtain ⟨-, -, -, disabled, -⟩ := consistent.sound
  have idle : (rd s.monitors f).state.runsWindow = false := by rw [disabled.2 hm]; rfl
  obtain ⟨-, -, run, tally⟩ := consistent.sound.windowless idle
  have out : m.usable = false := consistent.usable_eq.trans (Monitor.usability_stopped idle)
  have enable : s.applySettings f p = s.publish f (m.set s.elapsed p) (setFeedCause p) :=
    State.applySettings_enabled (by rw [hp]; simp)
  rw [Monitor.set_enabling _ hp hm run tally] at enable
  refine ⟨out, fun down => ?_, fun up => ⟨?_, ?_⟩⟩
  · have still : ({ m with state := .down, current := p, pending := none } : Monitor).usability = false :=
      Monitor.usability_stopped rfl
    rw [enable, if_neg (by simp [m, down]), State.publish_same _ _ _ _ (out.trans still.symm), still, ← out]
  · rw [enable, if_pos up, Monitor.startWindow_unpending _ rfl]
  · exact (Monitor.usability_running (m := on) up rfl).trans (Bool.or_false _)

end Settings

/-- Settles O48: the four cases of `Monitor.set`, each published by the change of usability that it brings. -/
theorem setFeedTakesTheSettings : Obligations.SetFeedTakesTheSettings := by
  have row : Instr.setFeed ∈ sessionCommands := by simp [sessionCommands]
  refine ⟨fun s c rest hw hn code len bad => ?_, fun s c rest f p hw hn code args wf consistent => ?_⟩
  · refine exec_next_answer (.inl row) (by simp [takesCommand, code]) hw hn ?_
    simp only [commandBody, setFeedBody, setFeedArgs_none len bad]
  intro m s' put usable unusable waits on off stopped answers
  have answered {t : State} (h : s'.applySettings f p = t) : answers t := by
    refine exec_next_answer (.inl row) (by simp [takesCommand, code]) hw hn ?_
    simp only [commandBody, setFeedBody, setFeedArgs_some args wf]
    rw [← h]
  refine ⟨fun still stopped => answered (State.applySettings_adopted (s := s') consistent still stopped),
    fun still running => ?_, fun hp hm => ?_, fun hp hm => ?_⟩
  · obtain ⟨event, after, before⟩ := State.applySettings_waiting (s := s') consistent still running
    refine ⟨fun same => answered ?_, fun advisory out => answered ?_, fun plain served out => answered ?_⟩
    · have kept : m.usable = waits.usability := before.trans (Eq.trans ?_ after.symm)
      · exact event.trans ((State.publish_same s' f waits _ kept).trans (by rw [← kept]; rfl))
      · rcases same with e | e
        · rw [e]; rfl
        · rw [show (rd s'.monitors f).state = _ from e]; simp
    · exact event.trans (State.publish_up s' f waits _ out (after.trans (by rw [advisory]; rfl)))
    · have idle : waits.usability = false := after.trans (Bool.or_eq_false_iff.2 ⟨plain, beq_eq_false_iff_ne.2 out⟩)
      exact event.trans (State.publish_down s' f waits _ served idle)
  · obtain ⟨event, idle⟩ := State.applySettings_disabled (s := s') hp hm
    refine ⟨fun out => answered ?_, fun served => answered ?_⟩
    · exact event.trans ((State.publish_same (s'.setPort f { rd s'.ports f with receiveStore := [] }) f _ _
        (out.trans idle.symm)).trans (by rw [idle]; rfl))
    · exact event.trans (State.publish_down _ f _ _ served idle)
  · obtain ⟨out, down, up⟩ := State.applySettings_enabling (s := s') consistent hp hm
    refine ⟨fun link => answered (down link), fun link plain => answered ?_, fun link advisory => answered ?_⟩
    · obtain ⟨event, usability⟩ := up link
      exact event.trans ((State.publish_same s' f _ _ (out.trans (usability.trans plain).symm)).trans (by rw [usability]; rfl))
    · obtain ⟨event, usability⟩ := up link
      refine event.trans ((State.publish_up s' f _ _ out (usability.trans advisory)).trans ?_)
      rw [show on = { on with usable := true } by rw [← advisory]]
      rfl

/-! ### Prepare and sync (R151, R155) -/

/-- Settles O57: the change list is applied once to each touched slot, and each state of the engine has its own row. -/
theorem prepareAndSyncWriteTheChanges : Obligations.PrepareAndSyncWriteTheChanges := by
  refine ⟨fun b cs distinct => ⟨fun x hx => ?_, fun i untouched => b.applyChanges_untouched cs i untouched⟩,
    fun s => ⟨fun k hk => congrArg Host.Outcome.next ?_, fun nothing => congrArg Host.Outcome.next ?_,
      fun cs hc => congrArg Host.Outcome.next ?_, fun cs k hc => congrArg Host.Outcome.next ?_,
      fun nothing => congrArg Host.Outcome.next ?_⟩⟩
  · rw [b.applyChanges_touched cs x hx distinct]
    cases x.change <;> rfl
  · simp only [State.prepareComplete, hk]
  · unfold State.prepareComplete
    split
    · exact absurd ‹_› (nothing _)
    · rfl
  · simp only [State.syncComplete, hc]
  · simp only [State.syncComplete, hc]
  · simp only [State.syncComplete]
    split
    · exact absurd ‹_› (nothing _ _)
    · exact absurd ‹_› (nothing _ _)
    · rfl

end Sys2Proof.Machine
end


section
/-! The statements on the arrival of a copy (sections 2.2 to 2.9), but for those on pressure releases. -/

namespace Sys2Proof.Machine

/-! ### The state after an event of a stream -/

/-- What an event of a stream leaves of the state, with its notices behind those that wait. -/
theorem State.putStream_raising (s : State) (i : Slot) (v : StreamView) {ns : List Notice} {latches : Vector Bool 256}
    (latch : wr s.streamLatches i v.latch = latches) (raised : v.raised = s.notices.raised ++ ns) :
    s.putStream i v =
      { s with runtimes := wr s.runtimes i v.rt, pool := v.pool, dataQueue := v.dataQueue
               streamLatches := latches, notices := s.notices.raising ns } := by
  simp only [State.putStream, NoticeUnit.raising, latch, raised]

/-- An event that leaves the stream's latch as it was. -/
theorem State.putStream_unlatched (s : State) (i : Slot) (v : StreamView) {ns : List Notice}
    (latch : v.latch = rd s.streamLatches i) (raised : v.raised = s.notices.raised ++ ns) :
    s.putStream i v =
      { s with runtimes := wr s.runtimes i v.rt, pool := v.pool, dataQueue := v.dataQueue
               notices := s.notices.raising ns } :=
  s.putStream_raising i v (by rw [latch, wr_rd]) raised

/-- An event that raises no notice either. -/
theorem State.putStream_silent (s : State) (i : Slot) (v : StreamView) (latch : v.latch = rd s.streamLatches i)
    (raised : v.raised = s.notices.raised) :
    s.putStream i v = { s with runtimes := wr s.runtimes i v.rt, pool := v.pool, dataQueue := v.dataQueue } := by
  simp [State.putStream, latch, raised]

/-- An event that declares the sequences from `n` up to `m` − 1 lost sets the latch when there is one (R28, R164). -/
theorem State.putStream_losing (s : State) (i : Slot) (v : StreamView) {ns : List Notice} (n m : Seq)
    (latch : v.latch = if n = m then rd s.streamLatches i else true) (raised : v.raised = s.notices.raised ++ ns) :
    s.putStream i v =
      { s with runtimes := wr s.runtimes i v.rt, pool := v.pool, dataQueue := v.dataQueue
               streamLatches := s.latchesLosing i n m, notices := s.notices.raising ns } := by
  refine s.putStream_raising i v ?_ raised
  rw [latch, State.latchesLosing]
  split <;> simp

/-! ### A refused copy (R17, R24) -/

theorem exec_copyTake {s : State} {f : Feed} {copy : Copy} {rest : List Copy} (h : (rd s.ports f).offered = copy :: rest) :
    exec (.copyTake f) s = .next ((s.taken f rest).takeCopy copy) :=
  congrArg Host.Outcome.next (by simp only [State.copyTake, h, State.taken])

/-- A copy whose tag is mapped to an ENABLED slot, and whose feed is usable, meets the checks of R24. -/
theorem exec_copyTake_mapped {s : State} {copy : Copy} {rest : List Copy} {i : Slot} {e : Entry}
    (h : (rd s.ports copy.feed).offered = copy :: rest) (slot : s.lookup copy.tag = some i)
    (entry : s.enabledEntry i = some e) (usable : (rd s.monitors copy.feed).usable = true) :
    exec (.copyTake copy.feed) s = .next ((s.taken copy.feed rest).putStream i
      ((s.streamView i).admitCopy (s.streamCtx i e false) copy)) := by
  rw [exec_copyTake h]
  refine congrArg Host.Outcome.next ?_
  have mapped : (s.taken copy.feed rest).lookup copy.tag = some i := slot
  have live : (s.taken copy.feed rest).enabledEntry i = some e := entry
  have serves : (rd (s.taken copy.feed rest).monitors copy.feed).usable = true := usable
  simp only [State.takeCopy, mapped, serves, Bool.not_true, Bool.false_eq_true, if_false, State.onStream, live]
  rfl

theorem StreamView.admitCopy_stray (c : StreamCtx) (v : StreamView) (copy : Copy) (h : copy.feed ∉ c.entry.feeds) :
    v.admitCopy c copy = v.count fun k => { k with strayCopies := satInc k.strayCopies } := by
  rw [StreamView.admitCopy, if_pos (by simpa using h)]

theorem StreamView.admitCopy_foreign (c : StreamCtx) (v : StreamView) (copy : Copy) {o : Byte}
    (listed : copy.feed ∈ c.entry.feeds) (origin : c.entry.origin = some o) (foreign : o ≠ copy.origin) :
    v.admitCopy c copy = (v.count fun k => { k with foreignCopies := satInc k.foreignCopies }).raise c .foreignCopy
      (feedByte copy.feed ++ copy.origin) := by
  rw [StreamView.admitCopy, if_neg (by simpa using listed), if_pos (by simpa [origin] using foreign)]

/-- Settles O22: the checks of R17 and R24 in their order. -/
theorem refusedCopiesAreOnlyCounted : Obligations.RefusedCopiesAreOnlyCounted := by
  intro s f copy rest offered from_
  subst from_
  intro t m
  refine ⟨fun unknown => ?_, ?_⟩
  · have unmapped : (s.taken copy.feed rest).lookup copy.tag = none := unknown
    rw [exec_copyTake offered]
    exact congrArg Host.Outcome.next (by simp only [State.takeCopy, unmapped]; rfl)
  intro i e slot entry r
  refine ⟨fun unusable => ?_, fun usable stray => ?_, fun o usable listed origin foreign => ?_⟩
  · have mapped : (s.taken copy.feed rest).lookup copy.tag = some i := slot
    have out : (rd (s.taken copy.feed rest).monitors copy.feed).usable = false := unusable
    rw [exec_copyTake offered]
    exact congrArg Host.Outcome.next (by simp only [State.takeCopy, mapped, out]; rfl)
  · rw [exec_copyTake_mapped offered slot entry usable, StreamView.admitCopy_stray (s.streamCtx i e false) _ copy stray]
    exact congrArg Host.Outcome.next (t.putStream_record i _)
  · rw [exec_copyTake_mapped offered slot entry usable,
      StreamView.admitCopy_foreign (s.streamCtx i e false) _ copy listed origin foreign]
    exact congrArg Host.Outcome.next (t.putStream_unlatched i _ rfl rfl)

/-! ### The fate of an admitted copy -/

section Fate

variable {s : State} {f : Feed} {copy : Copy} {rest : List Copy} {i : Slot} {e : Entry} {n : Seq} {v : StreamView}

theorem exec_copyTake_arrival (h : s.admits f copy rest i e)
    (hv : (s.streamView i).arrive (s.streamCtx i e false) copy = v) :
    exec (.copyTake f) s = .next ((s.taken f rest).putStream i v) :=
  congrArg Host.Outcome.next (hv ▸ State.copyTake_admitted h)

/-- In a followed stream, when the copy's fate makes no switch, nothing is re-examined. -/
theorem exec_copyTake_followed (h : s.admits f copy rest i e) (hf : (rd s.runtimes i).followed)
    (hn : (rd s.runtimes i).nes = some n)
    (hv : (s.streamView i).arriveFollowing (s.streamCtx i e false) n copy = v) (hs : v.switched = false) :
    exec (.copyTake f) s = .next ((s.taken f rest).putStream i v) :=
  exec_copyTake_arrival h (by
    rw [StreamView.arrive_followed _ _ copy n hf hn, hv, StreamView.reexamine_unswitched _ _ hs])

/-- A refused copy leaves `State.dropping` (R26). -/
theorem State.putStream_noBufferDrop (s : State) (f : Feed) (rest : List Copy) (i : Slot) :
    (s.taken f rest).putStream i (s.streamView i).noBufferDrop = s.dropping f rest i := by
  rw [StreamView.noBufferDrop_eq]
  exact (s.taken f rest).putStream_unlatched i _ rfl rfl

theorem exec_copyTake_dropped (h : s.admits f copy rest i e) (hf : (rd s.runtimes i).followed)
    (hn : (rd s.runtimes i).nes = some n)
    (hv : (s.streamView i).arriveFollowing (s.streamCtx i e false) n copy = (s.streamView i).noBufferDrop) :
    exec (.copyTake f) s = .next (s.dropping f rest i) := by
  rw [exec_copyTake_followed h hf hn hv rfl, State.putStream_noBufferDrop]

end Fate

section View

variable (c : StreamCtx) (v : StreamView) (n : Seq) (copy : Copy)

theorem headIsFallback_eq_false {hold : List Copy} (h : ∀ x ∈ hold.head?, x.seq ≠ n) : headIsFallback n hold = false := by
  cases hold with
  | nil => rfl
  | cons x _ => simpa [headIsFallback] using h x rfl

theorem StreamView.hold_refused (h : v.pool.free ≤ 16) : v.hold n copy = v.noBufferDrop := by
  have refused : ¬v.holdGranted = true := mt of_decide_eq_true (Nat.not_lt.2 h)
  rw [StreamView.hold, if_neg refused]

theorem StreamView.releaseNext_refused (h : v.pool.free = 0) : v.releaseNext c copy = v.noBufferDrop := by
  have refused : ¬v.releaseGranted = true := by simp [StreamView.releaseGranted, h]
  rw [StreamView.releaseNext, if_neg refused]

theorem StreamView.arriveFollowing_next (h : copy.seq = n) : v.arriveFollowing c n copy = v.arriveNext c n copy := by
  rw [StreamView.arriveFollowing, if_pos ((dist_eq_zero n copy.seq).2 h)]

/-- A deliverable copy of NES is released; a fallback for it is discarded first (R30). -/
theorem StreamView.arriveNext_deliverable (hd : deliverableFrom c.entry v.rt copy.feed) :
    v.arriveNext c n copy = ((v.discardFallback c n).releaseNext c copy).closeIfReleased c := by
  rw [StreamView.arriveNext, if_pos ((v.deliverable_iff c copy.feed).2 hd)]

theorem StreamView.discardFallback_absent (hf : ∀ x ∈ v.rt.hold.head?, x.seq ≠ n) : v.discardFallback c n = v := by
  rw [StreamView.discardFallback, headIsFallback_eq_false n hf]
  rfl

/-- A standby copy of NES without a fallback (R33). -/
theorem StreamView.arriveNext_standby (hd : ¬deliverableFrom c.entry v.rt copy.feed)
    (hf : ∀ x ∈ v.rt.hold.head?, x.seq ≠ n) :
    v.arriveNext c n copy = if v.holdHasRoom c then v.hold n copy else v.pressureRelease c n copy := by
  rw [StreamView.arriveNext, if_neg (mt (v.deliverable_iff c copy.feed).1 hd), headIsFallback_eq_false n hf]
  rfl

theorem StreamView.arriveNext_duplicate (hd : ¬deliverableFrom c.entry v.rt copy.feed)
    (hf : ∃ x ∈ v.rt.hold.head?, x.seq = n) : v.arriveNext c n copy = v.lateDuplicate.clearCandidate := by
  rw [StreamView.arriveNext, if_neg (mt (v.deliverable_iff c copy.feed).1 hd), if_pos ((headIsFallback_iff n _).2 hf)]

/-- An early copy of a sequence that is not held (R35). -/
theorem StreamView.arriveAhead_unheld (h : ∀ x ∈ v.rt.hold, x.seq ≠ copy.seq) :
    v.arriveAhead c n copy = if v.holdHasRoom c then v.hold n copy else v.pressureRelease c n copy := by
  have unheld : v.rt.hold.find? (fun x => x.seq == copy.seq) = none := by simpa using h
  rw [StreamView.arriveAhead, unheld]

theorem StreamView.holdHasRoom_iff : v.holdHasRoom c = true ↔ v.rt.hold.length < c.entry.holdLimit :=
  decide_eq_true_iff

end View

/-- Settles O25: each copy is held on the granted claim, the fallback at the head, and a second fallback is counted. -/
theorem earlyAndStandbyCopiesAreHeld : Obligations.EarlyAndStandbyCopiesAreHeld := by
  intro s f copy rest i e n ha hf hn r room
  refine ⟨fun free d1 dw w unheld => ?_, fun free next standby unheld => ?_, fun next standby held => ?_⟩
  · have fate : (s.streamView i).arriveFollowing (s.streamCtx i e false) n copy = (s.streamView i).hold n copy := by
      rw [StreamView.arriveFollowing_ahead (s.streamCtx i e false) _ n copy d1 dw w, StreamView.arriveAhead_unheld _ _ n copy unheld,
        if_pos ((StreamView.holdHasRoom_iff _ _).2 free.1)]
    rw [exec_copyTake_followed ha hf hn (fate.trans (StreamView.hold_granted _ n copy free.2)) rfl]
    exact congrArg Host.Outcome.next ((s.taken f rest).putStream_silent i _ rfl rfl)
  · have fate : (s.streamView i).arriveFollowing (s.streamCtx i e false) n copy = (s.streamView i).hold n copy := by
      obtain ⟨-, rfl, -⟩ := ha
      rw [StreamView.arriveFollowing_next _ _ n copy next, StreamView.arriveNext_standby _ _ n copy standby unheld,
        if_pos ((StreamView.holdHasRoom_iff _ _).2 free.1)]
    rw [exec_copyTake_followed ha hf hn (fate.trans (StreamView.hold_granted _ n copy free.2)) rfl]
    refine congrArg Host.Outcome.next (((s.taken f rest).putStream_silent i _ rfl rfl).trans ?_)
    rw [show insertHold n copy (s.streamView i).rt.hold = copy :: r.hold from insertHold_head n copy _ next unheld]
    rfl
  · refine exec_copyTake_record ha hf hn ?_
    obtain ⟨-, rfl, -⟩ := ha
    rw [StreamView.arriveFollowing_next _ _ n copy next, StreamView.arriveNext_duplicate _ _ n copy standby held]
    rfl

/-- Settles O29: every refused claim of the fate of a copy ends in the no-buffer drop. -/
theorem refusedClaimDropsTheCopy : Obligations.RefusedClaimDropsTheCopy := by
  intro s f copy rest i e n ha hf hn r
  refine ⟨fun next del unheld free => ?_, fun next standby unheld room free => ?_, fun d1 dw w unheld room free => ?_⟩
  · refine exec_copyTake_dropped ha hf hn ?_
    obtain ⟨-, rfl, -⟩ := ha
    rw [StreamView.arriveFollowing_next _ _ n copy next, StreamView.arriveNext_deliverable _ _ n copy del,
      StreamView.discardFallback_absent _ _ n unheld]
    exact congrArg (StreamView.closeIfReleased _) (StreamView.releaseNext_refused _ _ copy free)
  · refine exec_copyTake_dropped ha hf hn ?_
    obtain ⟨-, rfl, -⟩ := ha
    rw [StreamView.arriveFollowing_next _ _ n copy next, StreamView.arriveNext_standby _ _ n copy standby unheld,
      if_pos ((StreamView.holdHasRoom_iff _ _).2 room), StreamView.hold_refused _ n copy free]
  · refine exec_copyTake_dropped ha hf hn ?_
    rw [StreamView.arriveFollowing_ahead (s.streamCtx i e false) _ n copy d1 dw w, StreamView.arriveAhead_unheld _ _ n copy unheld,
      if_pos ((StreamView.holdHasRoom_iff _ _).2 room), StreamView.hold_refused _ n copy free]

/-! ### The first copy in SEEKING, and the copy that ends STARVED (R29, R42) -/

/-- After the release of a copy nothing is held, or the active feed is as it was, so that nothing is re-examined. -/
theorem StreamView.reexamine_after_release (c : StreamCtx) (v : StreamView) (h : v.rt.hold = [] ∨ v.switched = false) :
    v.reexamine c = v := by
  rcases h with empty | unswitched
  · exact StreamView.reexamine_empty c v empty
  · exact StreamView.reexamine_unswitched c v unswitched

/-- The release of a deliverable copy makes no switch (R72). -/
theorem State.releasing_active_deliverable (s : State) {e : Entry} {r : Runtime} {copy : Copy}
    (h : deliverableFrom e r copy.feed) : (s.releasing e r copy).active = r.active :=
  s.reported_active e r copy.feed h

theorem StreamView.arrive_seeking (c : StreamCtx) (v : StreamView) (copy : Copy) (h : v.rt.mergeState = .seeking) :
    v.arrive c copy = (v.arriveSeeking c copy).reexamine c := by
  rw [StreamView.arrive, h]

theorem Runtime.losing_active (r : Runtime) (n m : Seq) : (r.losing n m).active = r.active := by
  rw [Runtime.losing]; split <;> rfl

theorem Runtime.losing_hold (r : Runtime) (n m : Seq) : (r.losing n m).hold = r.hold := by
  rw [Runtime.losing]; split <;> rfl

/-- A gap changes nothing of what is deliverable (R25). -/
theorem deliverableFrom_losing {e : Entry} {r : Runtime} {f : Feed} (n m : Seq) (h : deliverableFrom e r f) :
    deliverableFrom e (r.losing n m) f :=
  h.imp id (r.losing_active n m).trans

theorem rescues_losing (e : Entry) (r : Runtime) (f : Feed) (n m : Seq) : rescues e (r.losing n m) f = rescues e r f := by
  simp only [rescues, deliverableFrom, Runtime.losing_active]

theorem StreamView.arrive_starved (c : StreamCtx) (v : StreamView) (copy : Copy) {n : Seq} (h : v.rt.mergeState = .starved)
    (hn : v.rt.nes = some n) : v.arrive c copy = (v.arriveStarved c n copy).reexamine c := by
  rw [StreamView.arrive, h, hn]

section Released

variable (s : State) (i : Slot) (e : Entry) (v : StreamView) (copy : Copy)

/-- The close of an arrival in a stream that is TRACKING recovers nothing (R32). -/
theorem StreamView.closeArrival_tracking (h : v.rt.mergeState = .tracking) :
    v.closeArrival (s.streamCtx i e false) = { v with
      rt := { v.rt with candidate := none, due := some (s.elapsed + (e.period + e.slack)) } } := by
  rw [StreamView.closeArrival_closed]
  simp [Runtime.closed, recoveredNotice, h]

/-- The first copy on a granted claim (R29). -/
theorem StreamView.arriveSeeking_granted (h : 1 ≤ v.pool.free) :
    v.arriveSeeking (s.streamCtx i e false) copy = { v with
      rt := { s.releasing e v.rt copy with
        mergeState := .tracking, candidate := none, due := some (s.elapsed + (e.period + e.slack)) }
      pool := v.pool.claimed.freed (s.undelivered 1)
      dataQueue := v.dataQueue ++ s.handed [copyFrame copy (rescues e v.rt copy.feed) v.rt.gapMark false true]
      raised := v.raised ++ (v.pool.claimed.freedNotice (s.undelivered 1) ++
        switchNotice i e v.rt.active (s.releasing e v.rt copy).active)
      released := true
      switched := v.switched || decide (v.rt.active ≠ (s.releasing e v.rt copy).active) } := by
  rw [StreamView.arriveSeeking, if_pos (show v.releaseGranted = true from decide_eq_true h), StreamView.release_eq,
    StreamView.closeArrival_tracking _ _ _ _ rfl]
  rfl

theorem not_behind {n m : Seq} (h : (m - n).toNat < 32768) : ¬behind (dist n m) = true :=
  mt of_decide_eq_true (Nat.not_le.2 h)

/-- The copy that ends STARVED, on a granted claim (R42). -/
theorem StreamView.arriveStarved_granted (n : Seq) (hn : v.rt.nes = some n) (hd : (copy.seq - n).toNat < 32768)
    (h : 1 ≤ v.pool.free) :
    let lost := v.rt.losing n copy.seq
    v.arriveStarved (s.streamCtx i e false) n copy = { v with
      rt := { s.releasing e lost copy with
        mergeState := .tracking, candidate := none, due := some (s.elapsed + (e.period + e.slack)) }
      pool := v.pool.claimed.freed (s.undelivered 1)
      dataQueue := v.dataQueue ++ s.handed [copyFrame copy (rescues e v.rt copy.feed) lost.gapMark false false]
      latch := if n = copy.seq then v.latch else true
      raised := v.raised ++ (gapNotices i e n copy.seq ++ v.pool.claimed.freedNotice (s.undelivered 1) ++
        switchNotice i e v.rt.active (s.releasing e lost copy).active ++ [streamNotice i e .streamRecovered 0])
      released := true
      switched := v.switched || decide (v.rt.active ≠ (s.releasing e lost copy).active) } := by
  intro lost
  rw [StreamView.arriveStarved, if_neg (not_behind hd), if_pos (show v.releaseGranted = true from decide_eq_true h),
    StreamView.declareLost_losing v.takeBuffer s i e false n _ hn, StreamView.release_eq, StreamView.closeArrival_tracking _ _ _ _ rfl]
  simp only [StreamView.raise, StreamView.mapRt, StreamView.takeBuffer, rescues_losing, Runtime.losing_active, List.append_assoc]
  rfl

end Released

/-- Settles O23: the claim, the release with its report, and the close, of which the record keeps no trace of SEEKING. -/
theorem seekingFollowsTheFirstCopy : Obligations.SeekingFollowsTheFirstCopy := by
  intro s f copy rest i e ha seeking r r'
  obtain ⟨-, sender, -⟩ := id ha
  subst sender
  have fate := StreamView.arrive_seeking (s.streamCtx i e false) (s.streamView i) copy seeking
  refine ⟨fun settled free => ?_, fun free => ?_⟩
  · rw [StreamView.arriveSeeking_granted _ _ _ _ _ free, StreamView.reexamine_after_release _ _ ?_] at fate
    · rw [exec_copyTake_arrival ha fate]
      exact congrArg Host.Outcome.next ((s.taken copy.feed rest).putStream_unlatched i _ rfl rfl)
    · refine settled.symm.imp id fun deliverable => ?_
      exact decide_eq_false (not_not_intro (s.releasing_active_deliverable deliverable).symm)
  · have refused : ¬(s.streamView i).releaseGranted = true := mt of_decide_eq_true (by simp [State.streamView, free])
    rw [StreamView.arriveSeeking, if_neg refused, StreamView.reexamine_unswitched _ _ rfl] at fate
    rw [exec_copyTake_arrival ha fate, State.putStream_noBufferDrop]

/-- Settles O31: the gap up to the copy, its release, and the close after STREAM_RECOVERED. -/
theorem starvedStreamRecovers : Obligations.StarvedStreamRecovers := by
  intro s f copy rest i e n ha starved hn ahead r lost r'
  obtain ⟨-, sender, -⟩ := id ha
  subst sender
  have fate := StreamView.arrive_starved (s.streamCtx i e false) (s.streamView i) copy starved hn
  refine ⟨fun settled free => ?_, fun free => ?_⟩
  · rw [StreamView.arriveStarved_granted _ _ _ _ _ n hn ahead free, StreamView.reexamine_after_release _ _ ?_] at fate
    · rw [exec_copyTake_arrival ha fate]
      exact congrArg Host.Outcome.next ((s.taken copy.feed rest).putStream_losing i _ n copy.seq rfl rfl)
    · refine settled.symm.imp (r.losing_hold n copy.seq).trans fun deliverable => ?_
      exact decide_eq_false (not_not_intro
        ((s.releasing_active_deliverable (deliverableFrom_losing n copy.seq deliverable)).trans
          (r.losing_active n copy.seq)).symm)
  · have refused : ¬(s.streamView i).releaseGranted = true := mt of_decide_eq_true (by simp [State.streamView, free])
    rw [StreamView.arriveStarved, if_neg (not_behind ahead), if_neg refused, StreamView.reexamine_unswitched _ _ rfl] at fate
    rw [exec_copyTake_arrival ha fate, State.putStream_noBufferDrop]

/-! ### Out-of-window copies and the resynchronisation (R39 to R43) -/

theorem Candidate.next_of_row {window : Nat} {before : Option Candidate} {s : Seq} {k : Candidate}
    (h : candidateRow window before s k) : Candidate.next window before s = k := by
  cases before with
  | none => exact h.symm
  | some j =>
    have same : dist j.seq s = 0 ↔ s = j.seq := dist_eq_zero j.seq s
    rcases h with ⟨again, rfl⟩ | ⟨ahead, near, rfl⟩ | ⟨far, rfl⟩
    · exact if_pos again
    · rw [Candidate.next, if_neg fun again => absurd (same.2 again) (Nat.ne_of_gt ahead), if_pos near]
    · rw [Candidate.next, if_neg fun again => absurd (same.2 again) (Nat.ne_of_gt (Nat.zero_lt_of_lt far)),
        if_neg (Nat.not_le.2 far)]

theorem StreamView.arrive_outOfWindow (c : StreamCtx) (v : StreamView) (copy : Copy) {n : Seq} (hn : v.rt.nes = some n)
    (h : (v.rt.followed ∧ c.entry.window < (copy.seq - n).toNat ∧ (copy.seq - n).toNat < 32768) ∨
      (v.rt.mergeState = .starved ∧ 32768 ≤ (copy.seq - n).toNat)) :
    v.arrive c copy = (v.arriveOutOfWindow c copy).reexamine c := by
  rcases h with ⟨followed, beyond, ahead⟩ | ⟨starved, back⟩
  · have apart : ¬dist n copy.seq = 0 := Nat.ne_of_gt (Nat.lt_of_le_of_lt (Nat.zero_le _) beyond)
    rw [StreamView.arrive_followed c v copy n followed hn, StreamView.arriveFollowing, if_neg apart, if_neg (not_behind ahead),
      if_neg (show ¬dist n copy.seq ≤ c.entry.window from Nat.not_le.2 beyond)]
  · rw [StreamView.arrive_starved c v copy starved hn, StreamView.arriveStarved,
      if_pos (show behind (dist n copy.seq) = true from decide_eq_true back)]

section Resync

variable (s : State) (i : Slot) (e : Entry) (v : StreamView) (copy : Copy)

theorem StreamView.resynchronise_refused (c : StreamCtx) (free : v.pool.free = 0) (empty : v.rt.hold = []) :
    v.resynchronise c copy = v.noBufferDrop := by
  rw [StreamView.resynchronise, if_pos (by rw [free, empty]; rfl)]

/-- The flush of the hold list with the claim taken, and the test of the flag (R41; log 10). -/
def StreamView.flushed (v : StreamView) : StreamView :=
  let free := v.pool.free + v.rt.hold.length - 1
  let recovers := v.rt.hold ≠ [] ∧ v.pool.pressure = true ∧ 32 ≤ free
  { v with
    rt := { v.rt with hold := [], gapMark := false }
    pool := { free := free, pressure := if recovers then false else v.pool.pressure }
    raised := v.raised ++ poolRecovered recovers }

theorem StreamView.resynchronise_flushed (free : 1 ≤ v.pool.free + v.rt.hold.length) :
    let was := v.rt.mergeState
    let v3 := (v.flushed.release (s.streamCtx i e false) copy true false).mapRt fun r =>
      { r with nes := some (copy.seq + 1), mergeState := .tracking }
    let v4 := ((v3.count fun k => { k with resyncs := satInc k.resyncs }).setLatch).raise
      (s.streamCtx i e false) .streamResync copy.seq
    v.resynchronise (s.streamCtx i e false) copy =
      (if was = .bridging ∨ was = .starved then v4.raise (s.streamCtx i e false) .streamRecovered 0 else v4).closeArrival
        (s.streamCtx i e false) := by
  have flush : (if (v.rt.hold.length = 0 || false) = true then ({ v with
        rt := { v.rt with hold := [] }, pool := { v.pool with free := v.pool.free + v.rt.hold.length - 1 } } : StreamView)
      else { v with
        rt := { v.rt with hold := [] }
        pool := (Pool.tested { v.pool with free := v.pool.free + v.rt.hold.length - 1 }).1
        raised := v.raised ++ (Pool.tested { v.pool with free := v.pool.free + v.rt.hold.length - 1 }).2 }).mapRt
      (fun r => { r with gapMark := false }) = v.flushed := by
    cases held : v.rt.hold with
    | nil => simp [StreamView.flushed, StreamView.mapRt, held, poolRecovered]
    | cons x l => simp [StreamView.flushed, StreamView.mapRt, held, Pool.tested_eq]
  rw [StreamView.resynchronise, if_neg (Nat.ne_of_gt free), ← flush]
  rfl

/-- The resynchronisation on a granted claim (R41). -/
theorem StreamView.resynchronise_granted (free : 1 ≤ v.pool.free + v.rt.hold.length)
    (live : v.rt.followed ∨ v.rt.mergeState = .starved) :
    let w := v.flushed
    let r' := s.releasing e w.rt copy
    v.resynchronise (s.streamCtx i e false) copy = { w with
      rt := { r' with
        mergeState := .tracking, candidate := none, due := some (s.elapsed + (e.period + e.slack))
        counters := { r'.counters with resyncs := satInc w.rt.counters.resyncs } }
      pool := w.pool.freed (s.undelivered 1)
      dataQueue := w.dataQueue ++ s.handed [copyFrame copy (rescues e w.rt copy.feed) w.rt.gapMark true false]
      latch := true
      raised := v.raised ++ (poolRecovered (v.rt.hold ≠ [] ∧ v.pool.pressure = true ∧ 32 ≤ w.pool.free) ++
        w.pool.freedNotice (s.undelivered 1) ++ switchNotice i e w.rt.active r'.active ++
        [streamNotice i e .streamResync copy.seq] ++
        if v.rt.mergeState = .tracking then [] else [streamNotice i e .streamRecovered 0])
      released := true
      switched := w.switched || decide (w.rt.active ≠ r'.active) } := by
  intro w r'
  rw [StreamView.resynchronise_flushed s i e v copy free, StreamView.release_eq]
  have recovers : (v.rt.mergeState = .bridging ∨ v.rt.mergeState = .starved) ↔ ¬v.rt.mergeState = .tracking := by
    rcases live with (h | h) | h <;> simp [h]
  by_cases tracking : v.rt.mergeState = .tracking
  · rw [if_neg (mt recovers.1 (not_not_intro tracking)), if_pos tracking, StreamView.closeArrival_tracking _ _ _ _ rfl]
    simp only [StreamView.raise, StreamView.setLatch, StreamView.count, StreamView.mapRt, List.append_assoc, List.append_nil,
      StreamView.flushed, w]
    rfl
  · rw [if_pos (recovers.2 tracking), if_neg tracking, StreamView.closeArrival_tracking _ _ _ _ rfl]
    simp only [StreamView.raise, StreamView.setLatch, StreamView.count, StreamView.mapRt, List.append_assoc,
      StreamView.flushed, w]
    rfl

end Resync

/-- A copy that moves the candidate and does not reach the threshold (R39). -/
theorem StreamView.arriveOutOfWindow_below (c : StreamCtx) (v : StreamView) (copy : Copy) {k : Candidate}
    (row : candidateRow c.entry.window v.rt.candidate copy.seq k) (h : k.count ≠ c.entry.resyncThreshold) :
    v.arriveOutOfWindow c copy = { v with rt := { v.rt with
      candidate := some k, counters := { v.rt.counters with outOfWindow := satInc v.rt.counters.outOfWindow } } } := by
  rw [StreamView.arriveOutOfWindow, Candidate.next_of_row row, if_neg h]
  rfl

theorem StreamView.arriveOutOfWindow_threshold (c : StreamCtx) (v : StreamView) (copy : Copy) {k : Candidate}
    (row : candidateRow c.entry.window v.rt.candidate copy.seq k) (h : k.count = c.entry.resyncThreshold) :
    v.arriveOutOfWindow c copy = (v.count fun x => { x with outOfWindow := satInc x.outOfWindow }).resynchronise c copy := by
  rw [StreamView.arriveOutOfWindow, Candidate.next_of_row row, if_pos h]

/-- Settles O28: the candidate moves by R39; at the threshold the resynchronisation empties the hold list, so that nothing
is left to re-examine. -/
theorem outOfWindowCopiesLeadToResync : Obligations.OutOfWindowCopiesLeadToResync := by
  intro s f copy rest i e n k ha hn place row r free recovers p r'
  obtain ⟨-, sender, -⟩ := id ha
  subst sender
  have fate := StreamView.arrive_outOfWindow (s.streamCtx i e false) (s.streamView i) copy hn place
  refine ⟨fun below => ?_, fun threshold room => ?_, fun threshold none empty => ?_⟩
  · rw [StreamView.arriveOutOfWindow_below (s.streamCtx i e false) _ copy row below,
      StreamView.reexamine_unswitched _ _ rfl] at fate
    rw [exec_copyTake_arrival ha fate]
    exact congrArg Host.Outcome.next ((s.taken copy.feed rest).putStream_record i _)
  · have live : r.followed ∨ r.mergeState = .starved := place.imp And.left And.left
    rw [StreamView.arriveOutOfWindow_threshold (s.streamCtx i e false) _ copy row threshold,
      StreamView.resynchronise_granted _ _ _ _ _ room live, StreamView.reexamine_empty _ _ rfl] at fate
    rw [exec_copyTake_arrival ha fate]
    exact congrArg Host.Outcome.next ((s.taken copy.feed rest).putStream_raising i _ rfl rfl)
  · rw [StreamView.arriveOutOfWindow_threshold (s.streamCtx i e false) _ copy row threshold,
      StreamView.resynchronise_refused _ _ _ none empty, StreamView.noBufferDrop_eq,
      StreamView.reexamine_unswitched _ _ rfl] at fate
    rw [exec_copyTake_arrival ha fate]
    exact congrArg Host.Outcome.next ((s.taken copy.feed rest).putStream_unlatched i _ rfl rfl)

/-! ### The deliverable copy of NES (R30, R31) -/

theorem State.releasing_deliverableFrom (s : State) {e : Entry} {r : Runtime} {copy : Copy}
    (h : deliverableFrom e r copy.feed) : deliverableFrom e (s.releasing e r copy) = deliverableFrom e r := by
  funext g
  rw [deliverableFrom, s.releasing_active_deliverable h]

/-- The release of a deliverable copy and of the deliverable copies that follow on from it, as one (R27, R31, R116). -/
theorem State.releasingAll_next (s : State) (i : Slot) (e : Entry) (p : Pool) (r : Runtime) (copy : Copy) (run : List Copy)
    (deliverable : deliverableFrom e r copy.feed) (all : ∀ c ∈ run, deliverableFrom e r c.feed)
    (seqs : run.map (·.seq) = (List.range run.length).map fun k => copy.seq + 1 + BitVec.ofNat 16 k) :
    s.releasingAll e r (copy :: run) = { r with
        nes := some (copy.seq + 1 + BitVec.ofNat 16 run.length)
        placeholderRun := 0
        gapMark := false
        selector := r.selector.map fun q => { q with rescueRun := none }
        counters := { r.counters with
          delivered := satAdd r.counters.delivered (1 + run.length)
          undeliverable := satAdd r.counters.undeliverable (s.undelivered (1 + run.length)) } } ∧
      s.releaseFrames e r (copy :: run) = s.handed (copyFrame copy false r.gapMark false false ::
        run.map fun h => copyFrame h false false false false) ∧
      s.releaseNotices i e p r (copy :: run) = p.freedNotice (s.undelivered (1 + run.length)) ∧
      s.releasesSwitch e r (copy :: run) = false := by
  have first := s.releasing_deliverable e r copy deliverable
  have cleared : (s.releasing e r copy).selector.map (fun q => { q with rescueRun := none }) =
      (s.releasing e r copy).selector := by
    rw [first]
    cases r.selector <;> rfl
  obtain ⟨record, frames, notices, switches⟩ := s.releasingAll_deliverable i e run (p.freed (s.undelivered 1))
    (s.releasing e r copy) (copy.seq + 1) (by rwa [s.releasing_deliverableFrom deliverable]) rfl rfl cleared rfl seqs
  have stays : (s.releasing e r copy).active = r.active := s.releasing_active_deliverable deliverable
  refine ⟨?_, ?_, ?_, ?_⟩
  · rw [State.releasingAll_cons, record, first, State.undelivered_add, ← satAdd_satAdd, ← satAdd_satAdd]
    rfl
  · rw [State.releaseFrames, frames, rescues_deliverable e r copy.feed deliverable, ← State.handed_append]
    rfl
  · rw [State.releaseNotices, notices, stays, switchNotice, if_pos rfl, List.append_nil, State.undelivered_add]
    exact (p.freed_freed _ _).2
  · rw [State.releasesSwitch, switches, stays]
    simp

/-- Buffers freed within an event of a stream (R109, R110). -/
theorem StreamView.freeBuffers_eq (s : State) (i : Slot) (e : Entry) (b : Bool) (v : StreamView) (n : Nat) :
    v.freeBuffers (s.streamCtx i e b) n = { v with
    pool := v.pool.freedIn b n, raised := v.raised ++ (v.pool.noted b).freedNotice n } := by
  by_cases none : n = 0
  · subst none
    rw [StreamView.freeBuffers, if_pos rfl, Pool.freedIn_zero, Pool.freedNotice_zero, List.append_nil]
  · have some_ : 1 ≤ n := Nat.one_le_iff_ne_zero.2 none
    rw [StreamView.freeBuffers, if_neg none]
    cases b
    · simp [State.streamCtx, Pool.tested_eq, Pool.freedIn, Pool.freed, Pool.noted, Pool.freedNotice, some_]
    · simp [State.streamCtx, Pool.freedIn, Pool.noted, Pool.freedNotice, poolRecovered]

/-- A fallback is discarded and its buffer freed (R30, R109). -/
theorem StreamView.discardFallback_eq (s : State) (i : Slot) (e : Entry) (v : StreamView) {n : Seq} {fallback held : List Copy}
    (hold : v.rt.hold = fallback ++ held)
    (h : (fallback = [] ∧ ∀ x ∈ held.head?, x.seq ≠ n) ∨ ∃ x, fallback = [x] ∧ x.seq = n) :
    v.discardFallback (s.streamCtx i e false) n = { v with
      rt := { v.rt with hold := held }
      pool := v.pool.freed fallback.length
      raised := v.raised ++ v.pool.freedNotice fallback.length } := by
  rcases h with ⟨rfl, unheld⟩ | ⟨x, rfl, same⟩
  · have none : v.discardFallback (s.streamCtx i e false) n = v :=
      StreamView.discardFallback_absent _ v n (by rw [hold]; exact unheld)
    rw [none, List.length_nil, Pool.freed_zero, Pool.freedNotice_zero, List.append_nil]
    exact congrArg (fun l => { v with rt := { v.rt with hold := l } }) hold
  · have fallback : headIsFallback n v.rt.hold = true := (headIsFallback_iff n _).2 ⟨x, by rw [hold]; rfl, same⟩
    rw [StreamView.discardFallback, if_pos fallback, StreamView.freeBuffers_eq]
    simp only [StreamView.mapRt, hold]
    rfl

/-- The deliverable copy of NES and the held copies that follow on from it, with the close (R30 to R32). -/
theorem StreamView.releaseNext_closed (s : State) (i : Slot) (e : Entry) (w : StreamView) {copy : Copy} {run left : List Copy}
    (followed : w.rt.followed) (hn : w.rt.nes = some copy.seq) (deliverable : deliverableFrom e w.rt copy.feed)
    (split : releaseSplit (deliverableFrom e w.rt) (copy.seq + 1) w.rt.hold run left) (free : 1 ≤ w.pool.free) :
    let undelivered := s.undelivered (1 + run.length)
    (w.releaseNext (s.streamCtx i e false) copy).closeIfReleased (s.streamCtx i e false) = { w with
      rt := { w.rt with
        mergeState := .tracking
        nes := some (copy.seq + 1 + BitVec.ofNat 16 run.length)
        hold := left
        candidate := none
        due := some (s.elapsed + (e.period + e.slack))
        placeholderRun := 0
        gapMark := false
        selector := w.rt.selector.map fun q => { q with rescueRun := none }
        counters := { w.rt.counters with
          delivered := satAdd w.rt.counters.delivered (1 + run.length)
          undeliverable := satAdd w.rt.counters.undeliverable undelivered } }
      pool := w.pool.claimed.freed undelivered
      dataQueue := w.dataQueue ++ s.handed (copyFrame copy false w.rt.gapMark false false ::
        run.map fun h => copyFrame h false false false false)
      raised := w.raised ++ (w.pool.claimed.freedNotice undelivered ++ recoveredNotice i e w.rt)
      released := true } := by
  intro undelivered
  obtain ⟨parts, seqs, all, stop⟩ := id split
  obtain ⟨record, frames, notices, switches⟩ := s.releasingAll_next i e w.pool.claimed w.rt copy run deliverable all seqs
  have back : (if w.rt.mergeState = .bridging then .tracking else w.rt.mergeState) = .tracking := by
    rcases followed with h | h <;> rw [h] <;> rfl
  rw [StreamView.releaseNext_eq w s i e false copy run left hn free (by rwa [s.releasing_deliverableFrom deliverable]),
    StreamView.closeIfReleased, if_pos rfl, StreamView.closeArrival_closed]
  simp only [Pool.noted, Bool.false_eq_true, if_false, record, frames, notices, switches, Runtime.closed, back, Bool.or_false,
    Nat.add_comm run.length 1, List.append_assoc]
  rfl

/-- Settles O24: the fallback goes, the copy and the run behind it are released as one, and the event closes. -/
theorem nextCopyIsReleased : Obligations.NextCopyIsReleased := by
  intro s f copy rest i e fallback held run left ha hf hn deliverable hold head split free r p undelivered
  obtain ⟨-, sender, -⟩ := id ha
  subst sender
  have fate := (StreamView.arriveFollowing_next (s.streamCtx i e false) (s.streamView i) _ copy rfl).trans
    (StreamView.arriveNext_deliverable _ _ _ copy deliverable)
  rw [StreamView.discardFallback_eq s i e _ hold head] at fate
  rw [exec_copyTake_followed ha hf hn (fate.trans (StreamView.releaseNext_closed s i e _ hf hn deliverable split free)) rfl]
  refine congrArg Host.Outcome.next ((s.taken copy.feed rest).putStream_unlatched i _ rfl ?_)
  simp only [List.append_assoc]
  rfl

end Sys2Proof.Machine
end


section
/-! The statements on pressure releases and on deadlines (sections 2.7 and 3). -/

namespace Sys2Proof.Machine

/-! ### The gap and the run that follow a pressure release or a deadline (R28, R31, R36, R50) -/

section Passed

variable (s : State) (i : Slot) (e : Entry) (v : StreamView) {n m : Seq} {run left : List Copy}

theorem Runtime.losing_nes (r : Runtime) (h : r.nes = some n) : (r.losing n m).nes = some m := by
  rw [Runtime.losing]
  split
  · rw [h]; exact congrArg some ‹n = m›
  · rfl

theorem Runtime.losing_mergeState (r : Runtime) : (r.losing n m).mergeState = r.mergeState := by
  rw [Runtime.losing]; split <;> rfl

/-- The view after the gap up to `m` and the release of `run`, whatever its feeds. -/
def State.passing (s : State) (i : Slot) (e : Entry) (v : StreamView) (n m : Seq) (run left : List Copy) : StreamView :=
  let lost := v.rt.losing n m
  { v with
    rt := { s.releasingAll e lost run with hold := left }
    pool := v.pool.freed (s.undelivered run.length)
    dataQueue := v.dataQueue ++ s.releaseFrames e lost run
    latch := if n = m then v.latch else true
    raised := v.raised ++ (gapNotices i e n m ++ s.releaseNotices i e v.pool lost run)
    released := v.released || !run.isEmpty
    switched := v.switched || s.releasesSwitch e lost run }

variable (hn : v.rt.nes = some n) (split : releaseSplit (fun _ => True) m v.rt.hold run left)

include hn split

theorem StreamView.passing_eq : (v.declareLost (s.streamCtx i e false) m).releaseRun (s.streamCtx i e false) true
    (v.declareLost (s.streamCtx i e false) m).rt.hold = s.passing i e v n m run left := by
  rw [StreamView.declareLost_losing v s i e false n m hn]
  have run_eq := StreamView.releaseRun_eq
    { v with
      rt := v.rt.losing n m, latch := if n = m then v.latch else true, raised := v.raised ++ gapNotices i e n m }
    s i e false true (fun _ => True) m run left (v.rt.losing_nes hn) (by rwa [Runtime.losing_hold]) (fun _ => trivial)
  rw [run_eq, State.passing, List.append_assoc]
  rfl

/-- NES is then behind the run (R31). -/
theorem State.passing_nes : (s.passing i e v n m run left).rt.nes = some (m + BitVec.ofNat 16 run.length) := by
  obtain ⟨-, seqs, -, -⟩ := split
  exact s.releasingAll_nes e run _ m (v.rt.losing_nes hn) seqs

omit hn split in
theorem State.passing_mergeState : (s.passing i e v n m run left).rt.mergeState = v.rt.mergeState :=
  (s.releasingAll_mergeState e run _).trans v.rt.losing_mergeState

end Passed

/-! ### Deadlines (R48 to R57) -/

theorem exec_dueExpiry {s : State} {i : Slot} {e : Entry} {x : Moment} {n : Seq} (entry : s.enabledEntry i = some e)
    (followed : (rd s.runtimes i).followed) (due : (rd s.runtimes i).due = some x) (hn : (rd s.runtimes i).nes = some n)
    (now : x ≤ s.elapsed) :
    exec (.dueExpiry i) s = .next (s.putStream i ((s.streamView i).expireDue (s.streamCtx i e false) x n)) := by
  have timer : (rd s.runtimes i).dueTimer = some (x, n) := by
    rcases followed with h | h <;> simp only [Runtime.dueTimer, h, due, hn]
  refine congrArg Host.Outcome.next ?_
  rw [State.dueExpiry, timer]
  dsimp only
  rw [if_pos (show reached s.elapsed x = true from decide_eq_true now), State.onStream, entry]

theorem StreamView.noteRefusal_eq (v : StreamView) : v.noteRefusal = { v with
    pool := { v.pool with pressure := true }, raised := v.raised ++ exhaustedNotice v.pool } := by
  rw [StreamView.noteRefusal, Pool.refused, exhaustedNotice]
  split
  · rename_i set
    rw [← set]
  · rfl

section Deadline

variable (s : State) (i : Slot) (e : Entry) (v : StreamView) {n : Seq} (x : Moment)

/-- The expiry with copies held: the gap before the head, the run, and the close (R49 to R51). -/
theorem StreamView.expireHeld_eq {h : Copy} {run left : List Copy} (hn : v.rt.nes = some n)
    (split : releaseSplit (fun _ => True) h.seq v.rt.hold run left) :
    let w := s.passing i e v n h.seq run left
    v.expireHeld (s.streamCtx i e false) x h = { w with
      rt := { w.rt with mergeState := .tracking, due := some (x + (e.period + e.slack)) }
      raised := w.raised ++ recoveredNotice i e v.rt } := by
  intro w
  rw [StreamView.expireHeld, StreamView.passing_eq s i e v hn split, recoveredNotice]
  split
  · rfl
  · rw [List.append_nil]
    rfl

/-- The head of what is left is not the next sequence, so that a switch re-examines nothing more (R74). -/
theorem StreamView.expireHeld_reexamined {h : Copy} {run left : List Copy} (hn : v.rt.nes = some n)
    (split : releaseSplit (fun _ => True) h.seq v.rt.hold run left) :
    (v.expireHeld (s.streamCtx i e false) x h).reexamine (s.streamCtx i e false) =
      v.expireHeld (s.streamCtx i e false) x h := by
  rw [StreamView.expireHeld_eq s i e v x hn split]
  refine StreamView.reexamine_kept _ _ fun y hy => ?_
  rintro ⟨next, -⟩
  have nes := s.passing_nes i e v hn split
  obtain ⟨-, -, -, stop⟩ := split
  exact stop y hy ⟨(Option.some.inj (nes.symm.trans next)).symm, trivial⟩

/-- A placeholder's marks: placeholder, and after gap where a loss was declared before it (R54, R102). -/
theorem placeholderFrame_eq (e : Entry) (n : Seq) (afterGap : Bool) : placeholderFrame e n afterGap =
    { kind := .sample, marks := if afterGap then 0x18 else 0x08, tag := e.tag, seq := n, origin := e.origin.getD 0,
      payload := [] } := by
  cases afterGap <;> rfl

/-- A placeholder on a granted claim (R53, R54). -/
theorem StreamView.placeholder_granted (hn : v.rt.nes = some n) (h : 1 ≤ v.pool.free) :
    v.placeholder (s.streamCtx i e false) n = { v with
      rt := { v.rt with
        nes := some (n + 1), gapMark := false, placeholderRun := v.rt.placeholderRun + 1
        counters := { v.rt.counters with
          placeholders := satInc v.rt.counters.placeholders
          undeliverable := satAdd v.rt.counters.undeliverable (s.undelivered 1) } }
      pool := v.pool.claimed.freed (s.undelivered 1)
      dataQueue := v.dataQueue ++ s.handed [
        { kind := .sample, marks := if v.rt.gapMark then 0x18 else 0x08, tag := e.tag, seq := n, origin := e.origin.getD 0,
          payload := [] }]
      raised := v.raised ++ v.pool.claimed.freedNotice (s.undelivered 1) } := by
  rw [StreamView.placeholder, if_pos (show v.releaseGranted = true from decide_eq_true h), StreamView.deliver_eq,
    placeholderFrame_eq]
  simp only [StreamView.advance, StreamView.count, StreamView.mapRt, StreamView.takeBuffer, hn, Option.map_some]
  rfl

/-- A placeholder suppressed (R56). -/
theorem StreamView.placeholder_refused (hn : v.rt.nes = some n) (h : v.pool.free = 0) :
    v.placeholder (s.streamCtx i e false) n = { v with
      rt := { v.rt with
        nes := some (n + 1), gapMark := true, placeholderRun := v.rt.placeholderRun + 1
        counters := { v.rt.counters with
          gapEvents := satInc v.rt.counters.gapEvents
          lostSequences := satInc v.rt.counters.lostSequences
          suppressed := satInc v.rt.counters.suppressed } }
      pool := { v.pool with pressure := true }
      latch := true
      raised := v.raised ++ (exhaustedNotice v.pool ++ [streamNotice i e .streamGap 1]) } := by
  have refused : ¬v.releaseGranted = true := mt of_decide_eq_true (by omega)
  have apart : n ≠ n + 1 := by bv_omega
  have one : n + 1 - n = 1 := by bv_omega
  rw [StreamView.placeholder, if_neg refused, StreamView.declareLost_losing v.noteRefusal s i e false n _ hn,
    StreamView.noteRefusal_eq]
  simp only [StreamView.count, StreamView.mapRt, Runtime.losing, gapNotices, apart, if_false, one, List.append_assoc]
  rfl

/-- The close of a placeholder's event in a followed stream (R55). -/
theorem StreamView.closeBridging_followed (h : v.rt.followed) : v.closeBridging (s.streamCtx i e false) x = { v with
    rt := { v.rt with mergeState := .bridging, due := some (x + e.period) }
    latch := if v.rt.mergeState = .tracking then true else v.latch
    raised := v.raised ++ if v.rt.mergeState = .tracking then [streamNotice i e .streamBridging 0] else [] } := by
  have bridged : (if v.rt.mergeState = .tracking then .bridging else v.rt.mergeState) = .bridging := by
    rcases h with h | h <;> rw [h] <;> rfl
  rw [StreamView.closeBridging_eq, bridged]
  rfl

end Deadline

/-- Settles O33: nothing is re-examined after the run, whose close is the deadline's own. -/
theorem deadlineReleasesTheHeldCopies : Obligations.DeadlineReleasesTheHeldCopies := by
  intro s i e x n h held run left entry followed due hn hold now split r lost
  have split' : releaseSplit (fun _ => True) h.seq (s.streamView i).rt.hold run left := hold ▸ split
  rw [exec_dueExpiry entry followed due hn now]
  refine congrArg Host.Outcome.next ?_
  have fate : (s.streamView i).expireDue (s.streamCtx i e false) x n =
      ((s.streamView i).expireHeld (s.streamCtx i e false) x h).reexamine (s.streamCtx i e false) := by
    rw [StreamView.expireDue, show (s.streamView i).rt.hold = h :: held from hold]
  rw [fate, StreamView.expireHeld_reexamined s i e _ x hn split', StreamView.expireHeld_eq s i e _ x hn split']
  refine s.putStream_losing i _ n h.seq rfl ?_
  simp only [State.passing, List.append_assoc]
  rfl

/-- Settles O32: the placeholder or its suppression with the close of R55, and STARVED at the limit. -/
theorem deadlineWithNothingHeld : Obligations.DeadlineWithNothingHeld := by
  intro s i e x n entry followed due hn empty now r entering bridging r'
  have fate : (s.streamView i).expireDue (s.streamCtx i e false) x n =
      if r.placeholderRun < e.placeholderLimit then
        ((s.streamView i).placeholder (s.streamCtx i e false) n).closeBridging (s.streamCtx i e false) x
      else (s.streamView i).starve (s.streamCtx i e false) := by
    rw [StreamView.expireDue, show (s.streamView i).rt.hold = [] from empty]
    rfl
  rw [exec_dueExpiry entry followed due hn now, fate]
  refine ⟨fun below free => ?_, fun below free => ?_, fun limit => ?_⟩
  · rw [if_pos below, StreamView.placeholder_granted s i e _ hn free, StreamView.closeBridging_followed s i e _ x followed]
    have latches : wr s.streamLatches i (if entering then true else rd s.streamLatches i) =
        if entering then wr s.streamLatches i true else s.streamLatches := by
      split <;> simp
    exact congrArg Host.Outcome.next (s.putStream_raising i _ latches (List.append_assoc _ _ _))
  · rw [if_pos below, StreamView.placeholder_refused s i e _ hn free, StreamView.closeBridging_followed s i e _ x followed]
    exact congrArg Host.Outcome.next (s.putStream_raising i _ (congrArg _ (ite_self _)) (List.append_assoc _ _ _))
  · rw [if_neg (Nat.not_lt.2 limit)]
    exact congrArg Host.Outcome.next (s.putStream_raising i _ rfl rfl)

/-! ### Pressure releases (R36, R37) -/

section Pressure

variable (c : StreamCtx) (v : StreamView) (copy : Copy) {n : Seq}

theorem StreamView.reconsider_release (hn : v.rt.nes = some copy.seq)
    (goes : deliverableFrom c.entry v.rt copy.feed ∨ c.entry.holdLimit ≤ v.rt.hold.length) :
    v.reconsider c copy = v.releaseNext c copy := by
  have condition : v.deliverable c copy.feed = true ∨ c.entry.holdLimit ≤ v.rt.hold.length :=
    goes.imp (v.deliverable_iff c copy.feed).2 id
  simp only [StreamView.reconsider, hn, if_true, if_pos condition]

theorem StreamView.reconsider_hold (hn : v.rt.nes = some n)
    (stays : ¬(copy.seq = n ∧ (deliverableFrom c.entry v.rt copy.feed ∨ c.entry.holdLimit ≤ v.rt.hold.length))) :
    v.reconsider c copy = v.hold n copy := by
  simp only [StreamView.reconsider, hn]
  by_cases next : copy.seq = n
  · have condition : ¬(v.deliverable c copy.feed = true ∨ c.entry.holdLimit ≤ v.rt.hold.length) := fun goes =>
      stays ⟨next, goes.imp (v.deliverable_iff c copy.feed).1 id⟩
    rw [if_pos next, if_neg condition]
  · rw [if_neg next]

/-- An early copy, or a standby copy of NES without a fallback, that finds the hold list full (R33, R35). -/
theorem StreamView.arriveFollowing_pressed (full : c.entry.holdLimit ≤ v.rt.hold.length)
    (unheld : ∀ h ∈ v.rt.hold, h.seq ≠ copy.seq)
    (early : 1 ≤ (copy.seq - n).toNat ∨ ¬deliverableFrom c.entry v.rt copy.feed)
    (near : (copy.seq - n).toNat ≤ c.entry.window) (window : c.entry.window ≤ 1023) :
    v.arriveFollowing c n copy = v.pressureRelease c n copy := by
  have noRoom : ¬v.holdHasRoom c = true := mt (v.holdHasRoom_iff c).1 (Nat.not_lt.2 full)
  by_cases next : copy.seq = n
  · have standby : ¬deliverableFrom c.entry v.rt copy.feed := early.resolve_left (by simp [next])
    rw [StreamView.arriveFollowing_next c v n copy next, StreamView.arriveNext_standby c v n copy standby
      fun x hx => next ▸ unheld x (List.mem_of_mem_head? hx), if_neg noRoom]
  · have ahead : 1 ≤ dist n copy.seq := Nat.one_le_iff_ne_zero.2 (mt (dist_eq_zero n copy.seq).1 next)
    rw [StreamView.arriveFollowing_ahead c v n copy ahead near window, StreamView.arriveAhead_unheld c v n copy unheld,
      if_neg noRoom]

/-- The mark of a pressure release: the nearer of the copy and the head (R36). -/
theorem pressureMark_eq (n : Seq) (copy : Copy) (hold : List Copy) : pressureMark n copy hold =
    match hold with
    | h :: _ => if (h.seq - n).toNat < (copy.seq - n).toNat then h.seq else copy.seq
    | [] => copy.seq := by
  cases hold <;> rfl

variable (s : State) (i : Slot) (e : Entry)

theorem recoveredNotice_congr {r r' : Runtime} (h : r.mergeState = r'.mergeState) :
    recoveredNotice i e r = recoveredNotice i e r' := by
  rw [recoveredNotice, recoveredNotice, h]

/-- The close of an event that has released a copy when `run` is not empty, and none else (R32). -/
theorem StreamView.closeIfReleased_eq {run : List Copy} (h : v.released = !run.isEmpty) :
    v.closeIfReleased (s.streamCtx i e false) = { v with
      rt := if run = [] then v.rt else v.rt.closed (s.elapsed + (e.period + e.slack))
      raised := v.raised ++ if run = [] then [] else recoveredNotice i e v.rt } := by
  rw [StreamView.closeIfReleased]
  cases run with
  | nil => rw [if_neg (by simp [h])]; simp
  | cons x l => rw [if_pos (by simp [h]), StreamView.closeArrival_closed]; simp

/-- A run of deliverable copies makes no switch (R27, R72). -/
theorem State.releasingAll_active (l : List Copy) (r : Runtime) (h : ∀ x ∈ l, deliverableFrom e r x.feed) :
    (s.releasingAll e r l).active = r.active := by
  induction l generalizing r with
  | nil => rfl
  | cons x l ih =>
    have stays := s.releasing_active_deliverable (h x List.mem_cons_self)
    have rest : ∀ y ∈ l, deliverableFrom e (s.releasing e r x) y.feed := by
      rw [s.releasing_deliverableFrom (h x List.mem_cons_self)]
      exact fun y hy => h y (List.mem_cons_of_mem x hy)
    rw [State.releasingAll_cons, ih _ rest, stays]

/-- What is left of a pressure release once the run is out: the copy is reconsidered, and the event closes (R37). -/
theorem StreamView.pressureRelease_eq {m : Seq} {run left : List Copy} (hn : v.rt.nes = some n)
    (mark : pressureMark n copy v.rt.hold = m) (split : releaseSplit (fun _ => True) m v.rt.hold run left) :
    v.pressureRelease (s.streamCtx i e false) n copy =
      ((s.passing i e v n m run left).reconsider (s.streamCtx i e false) copy).closeIfReleased (s.streamCtx i e false) := by
  rw [← StreamView.passing_eq s i e v hn split, StreamView.pressureRelease, mark]

/-- The copy is released on a granted claim, and the ordinary run after it, whose stop leaves nothing to re-examine. -/
theorem StreamView.releaseNext_reexamined {more kept : List Copy} (hn : v.rt.nes = some copy.seq) (free : 1 ≤ v.pool.free)
    (split : releaseSplit (deliverableFrom e (s.releasing e v.rt copy)) (copy.seq + 1) v.rt.hold more kept) :
    ((v.releaseNext (s.streamCtx i e false) copy).closeIfReleased (s.streamCtx i e false)).reexamine
        (s.streamCtx i e false) = { v with
      rt := ({ s.releasingAll e v.rt (copy :: more) with hold := kept } : Runtime).closed
        (s.elapsed + (e.period + e.slack))
      pool := v.pool.claimed.freed (s.undelivered (1 + more.length))
      dataQueue := v.dataQueue ++ s.releaseFrames e v.rt (copy :: more)
      raised := v.raised ++ (s.releaseNotices i e v.pool.claimed v.rt (copy :: more) ++ recoveredNotice i e v.rt)
      released := true
      switched := v.switched || s.releasesSwitch e v.rt (copy :: more) } := by
  have recovered : recoveredNotice i e { s.releasingAll e v.rt (copy :: more) with hold := kept } = recoveredNotice i e v.rt :=
    recoveredNotice_congr i e (s.releasingAll_mergeState e _ _)
  obtain ⟨-, seqs, all, stop⟩ := id split
  have nes : (s.releasingAll e v.rt (copy :: more)).nes = some (copy.seq + 1 + BitVec.ofNat 16 more.length) :=
    s.releasingAll_nes e more _ _ rfl seqs
  have active : (s.releasingAll e v.rt (copy :: more)).active = (s.releasing e v.rt copy).active :=
    s.releasingAll_active e more _ all
  rw [StreamView.releaseNext_eq v s i e false copy more kept hn free split, StreamView.closeIfReleased, if_pos rfl,
    StreamView.closeArrival_closed, StreamView.reexamine_kept, recovered, List.append_assoc, Nat.add_comm more.length 1]
  · rfl
  · rintro x hx ⟨next, deliverable⟩
    refine stop x hx ⟨(Option.some.inj (nes.symm.trans next)).symm, ?_⟩
    exact ((StreamView.deliverable_iff _ _ _).1 deliverable).imp id active.symm.trans

variable {run : List Copy}

/-- The close, after which nothing is re-examined when the head is not the next sequence from a deliverable feed. -/
theorem StreamView.closeIfReleased_reexamined (released : v.released = !run.isEmpty)
    (first : ∀ x ∈ v.rt.hold.head?, ¬(v.rt.nes = some x.seq ∧ deliverableFrom e v.rt x.feed)) :
    (v.closeIfReleased (s.streamCtx i e false)).reexamine (s.streamCtx i e false) = { v with
      rt := if run = [] then v.rt else v.rt.closed (s.elapsed + (e.period + e.slack))
      raised := v.raised ++ if run = [] then [] else recoveredNotice i e v.rt } := by
  have first' : ∀ x ∈ v.rt.hold.head?,
      ¬(v.rt.nes = some x.seq ∧ v.deliverable (s.streamCtx i e false) x.feed = true) := fun x hx both =>
    first x hx ⟨both.1, (StreamView.deliverable_iff _ _ _).1 both.2⟩
  rw [StreamView.closeIfReleased_eq v s i e released, StreamView.reexamine_kept]
  dsimp only
  split
  · exact first'
  · exact first'

variable (released : v.released = !run.isEmpty) (hn : v.rt.nes = some n) (stop : ∀ h ∈ v.rt.hold.head?, h.seq ≠ n)

include released hn stop

/-- The copy is held on a granted claim, at the head only where it is not the next sequence or is not deliverable. -/
theorem StreamView.hold_reexamined (free : 16 < v.pool.free) (stays : copy.seq = n → ¬deliverableFrom e v.rt copy.feed) :
    let held : Runtime := { v.rt with hold := insertHold n copy v.rt.hold, candidate := none }
    ((v.hold n copy).closeIfReleased (s.streamCtx i e false)).reexamine (s.streamCtx i e false) = { v with
      rt := if run = [] then held else held.closed (s.elapsed + (e.period + e.slack))
      pool := v.pool.claimed
      raised := v.raised ++ if run = [] then [] else recoveredNotice i e v.rt } := by
  intro held
  rw [StreamView.hold_granted v n copy free]
  refine StreamView.closeIfReleased_reexamined _ s i e released fun x hx => ?_
  rintro ⟨nes, deliverable⟩
  have next : x.seq = n := Option.some.inj (nes.symm.trans hn)
  rcases insertHold_head? n copy v.rt.hold with first | first
  · obtain rfl : copy = x := Option.some.inj (first.symm.trans hx)
    exact stays next deliverable
  · exact stop x (first ▸ hx) next

/-- A refused claim drops the copy. -/
theorem StreamView.noBufferDrop_reexamined :
    let dropped : Runtime := { v.rt with
      counters := { v.rt.counters with noBufferDrops := satInc v.rt.counters.noBufferDrops } }
    (v.noBufferDrop.closeIfReleased (s.streamCtx i e false)).reexamine (s.streamCtx i e false) = { v with
      rt := if run = [] then dropped else dropped.closed (s.elapsed + (e.period + e.slack))
      pool := { v.pool with pressure := true }
      raised := v.raised ++ (exhaustedNotice v.pool ++ if run = [] then [] else recoveredNotice i e v.rt) } := by
  intro dropped
  rw [StreamView.noBufferDrop_eq, ← List.append_assoc]
  refine StreamView.closeIfReleased_reexamined _ s i e released fun x hx => ?_
  rintro ⟨nes, -⟩
  exact stop x hx (Option.some.inj (nes.symm.trans hn))

end Pressure

/-- Settles O30: the copy is reconsidered after the run, and in each of its three fates the head of what is held is not a
copy that a re-examination would release. -/
theorem pressureReleaseMakesRoom : Obligations.PressureReleaseMakesRoom := by
  intro s f copy rest i e n run left ha hf hn full unheld early near window r m split lost passed next p goes close recovered
    raised t
  obtain ⟨-, sender, -⟩ := id ha
  subst sender
  have mark : pressureMark n copy r.hold = m := pressureMark_eq n copy r.hold
  let x := s.passing i e (s.streamView i) n m run left
  have nes : x.rt.nes = some next := s.passing_nes i e (s.streamView i) hn split
  have fate : (s.streamView i).arrive (s.streamCtx i e false) copy =
      ((x.reconsider (s.streamCtx i e false) copy).closeIfReleased (s.streamCtx i e false)).reexamine
        (s.streamCtx i e false) := by
    rw [StreamView.arrive_followed _ _ copy n hf hn,
      StreamView.arriveFollowing_pressed _ _ copy full unheld early near window,
      StreamView.pressureRelease_eq _ copy s i e hn mark split]
  have released : x.released = !run.isEmpty := rfl
  have stop : ∀ h ∈ x.rt.hold.head?, h.seq ≠ next := by
    obtain ⟨-, -, -, last⟩ := split
    exact fun h hh same => last h hh ⟨same, trivial⟩
  have mergeState : recoveredNotice i e x.rt = recoveredNotice i e r :=
    recoveredNotice_congr i e (s.passing_mergeState i e (s.streamView i))
  refine ⟨fun more kept moves free run' => ?_, fun stays free => ?_, fun refused => ?_⟩
  · obtain ⟨same, goesOn⟩ := moves
    rw [StreamView.reconsider_release _ _ copy (nes.trans (congrArg some same.symm)) goesOn,
      StreamView.releaseNext_reexamined x copy s i e (nes.trans (congrArg some same.symm)) free run', mergeState] at fate
    rw [exec_copyTake_arrival ha fate]
    refine congrArg Host.Outcome.next ((s.taken copy.feed rest).putStream_losing i _ n m rfl ?_)
    simp only [x, State.passing, raised, List.append_assoc]
    rfl
  · rw [StreamView.reconsider_hold _ _ copy nes stays,
      StreamView.hold_reexamined x copy s i e released nes stop free (fun same => mt (fun d => ⟨same, .inl d⟩) stays),
        mergeState] at fate
    rw [exec_copyTake_arrival ha fate]
    refine congrArg Host.Outcome.next ((s.taken copy.feed rest).putStream_losing i _ n m rfl ?_)
    simp only [x, State.passing, raised, List.append_assoc]
    rfl
  · have drop : (x.reconsider (s.streamCtx i e false) copy) = x.noBufferDrop := by
      rcases refused with ⟨⟨same, goesOn⟩, free⟩ | ⟨stays, free⟩
      · rw [StreamView.reconsider_release _ _ copy (nes.trans (congrArg some same.symm)) goesOn,
          StreamView.releaseNext_refused _ _ copy free]
      · rw [StreamView.reconsider_hold _ _ copy nes stays, StreamView.hold_refused _ _ copy free]
    rw [drop, StreamView.noBufferDrop_reexamined x s i e released nes stop, mergeState] at fate
    rw [exec_copyTake_arrival ha fate]
    refine congrArg Host.Outcome.next ((s.taken copy.feed rest).putStream_losing i _ n m rfl ?_)
    simp only [x, State.passing, raised, List.append_assoc]
    rfl

end Sys2Proof.Machine
end


section
/-! The statements on feed events, reviews and hold-off expiries (sections 4.3 and 4.4). -/

namespace Sys2Proof.Machine

theorem State.listsPreferred_iff (s : State) (f : Feed) (i : Slot) : s.listsPreferred f i = true ↔
    ∃ e, s.enabledEntry i = some e ∧ e.mode ≠ .first ∧ f ∈ e.feeds := by
  rw [State.listsPreferred]
  cases s.enabledEntry i with
  | none => simp
  | some e => cases mode : e.mode <;> simp [mode]

/-- Settles O34: the marked slots are the ones that `State.listsPreferred` picks. -/
theorem feedEventMarksListingStreams : Obligations.FeedEventMarksListingStreams := by
  intro s f sent
  have event : s.feedEvent f = { s with
      feedEvents := wr s.feedEvents f (rd s.feedEvents f - 1)
      runtimes := tab fun i => if s.listsPreferred f i then (rd s.runtimes i).mark else rd s.runtimes i } :=
    if_neg (Nat.ne_of_gt sent)
  have record (i : Slot) : rd (s.feedEvent f).runtimes i =
      if s.listsPreferred f i then (rd s.runtimes i).mark else rd s.runtimes i := by rw [event]; exact rd_tab _ i
  refine ⟨s.feedEvent f, rfl, by rw [event], fun i => ⟨fun lists => ?_, fun unlisted => ?_⟩⟩
  · rw [record, if_pos ((s.listsPreferred_iff f i).2 lists)]
    rfl
  · rw [record, if_neg]
    rw [s.listsPreferred_iff f i]
    rintro ⟨e, entry, preferred, listed⟩
    exact (unlisted e entry).elim preferred fun absent => absent listed

/-! ### A switch and the re-examination that follows it (R73, R74) -/

section Switching

variable {s : State} {i : Slot} {e : Entry} {p : SelectionPart} {q : Selector}

/-- An event whose view has the record `r` with a switch from `before`, and then re-examines the hold list. -/
theorem State.putStream_switching {r : Runtime} {before dest : Option Feed} {run left : List Copy}
    (mode : e.mode = .preferred p) (active : r.active = dest) (hr : reexamined r dest run left) :
    s.putStream i (({ s.streamView i with
        rt := r, raised := s.notices.raised ++ switchNotice i e before r.active, switched := true } : StreamView).reexamine
          (s.streamCtx i e false)) = s.switching i e r before run left := by
  rw [StreamView.reexamine_eq s i e false p _ dest run left mode rfl active hr]
  exact s.putStream_unlatched i _ rfl (by simp only [List.append_assoc]; rfl)

/-- The review taken is that of the lowest marked slot (R68). -/
theorem State.nextReview_lowest (hq : (rd s.runtimes i).selector = some q) (pending : q.reviewPending = true)
    (lowest : ∀ j : Slot, j < i → (rd s.runtimes j).reviewPending = false) : s.nextReview = some i := by
  have marked : (rd s.runtimes i).reviewPending = true := by rw [Runtime.reviewPending, hq]; exact pending
  rw [State.nextReview, allSlots, List.find?_eq_some_iff_getElem]
  refine ⟨marked, i, by simp, by simp, fun j hj => ?_⟩
  have unmarked := lowest ⟨j, hj.trans i.isLt⟩ hj
  simpa using unmarked

variable (hq : (rd s.runtimes i).selector = some q) (entry : s.enabledEntry i = some e) (mode : e.mode = .preferred p)

include hq entry mode

section Review

variable (pending : q.reviewPending = true) (lowest : ∀ j : Slot, j < i → (rd s.runtimes j).reviewPending = false)

include pending lowest

/-- The review of the lowest marked slot leaves the selector that `State.reviewed` says (R69, R70). -/
theorem State.selectorReview_eq : s.selectorReview = s.putStream i
    (({ s.streamView i with
        rt := { rd s.runtimes i with selector := some (s.reviewed e p { q with reviewPending := false }) }
        raised := s.notices.raised ++ switchNotice i e q.active (s.reviewed e p { q with reviewPending := false }).active
        switched := decide (q.active ≠ (s.reviewed e p { q with reviewPending := false }).active) } : StreamView).reexamine
      (s.streamCtx i e false)) := by
  have unmarked : ((s.streamView i).mapSelector fun q => { q with reviewPending := false }).rt.selector =
      some { q with reviewPending := false } := by
    change (rd s.runtimes i).selector.map _ = _
    rw [hq]
    rfl
  have fate : (s.streamView i).review (s.streamCtx i e false) =
      (((s.streamView i).mapSelector fun q => { q with reviewPending := false }).evaluate (s.streamCtx i e false) p).reexamine
        (s.streamCtx i e false) := by
    rw [StreamView.review, show (s.streamCtx i e false).entry.mode = .preferred p from mode]
  rw [State.selectorReview, State.nextReview_lowest hq pending lowest]
  dsimp only
  rw [State.onStream, entry]
  dsimp only
  rw [fate, StreamView.evaluate_eq s i e false p _ _ unmarked rfl]
  rfl

theorem exec_selectorReview_switch {q' : Selector} {run left : List Copy}
    (hq' : s.reviewed e p { q with reviewPending := false } = q') (moves : q.active ≠ q'.active)
    (hr : reexamined (rd s.runtimes i) q'.active run left) : exec .selectorReview s =
      .next (s.switching i e { rd s.runtimes i with selector := some q' } q.active run left) := by
  refine congrArg Host.Outcome.next ((State.selectorReview_eq hq entry mode pending lowest).trans ?_)
  rw [hq', decide_eq_true moves]
  exact State.putStream_switching (r := { rd s.runtimes i with selector := some q' }) mode rfl hr

theorem exec_selectorReview_kept {q' : Selector} (hq' : s.reviewed e p { q with reviewPending := false } = q')
    (stays : q'.active = q.active) : exec .selectorReview s =
      .next (s.setRuntime i { rd s.runtimes i with selector := some q' }) := by
  refine congrArg Host.Outcome.next ((State.selectorReview_eq hq entry mode pending lowest).trans ?_)
  rw [hq', StreamView.reexamine_unswitched _ _ (decide_eq_false (not_not_intro stays.symm)), stays, switchNotice, if_pos rfl,
    List.append_nil]
  exact s.putStream_record i _

end Review

end Switching

/-! ### The rows of a review (R69, R70) -/

section Rows

variable {s : State} {e : Entry} {p : SelectionPart} {q : Selector}

theorem State.switchedAtOnce_moved (h : s.bestUsable e ≠ q.active) : s.switchedAtOnce e q =
    { state := if s.bestUsable e = none then .noFeed else .primary, active := s.bestUsable e, holdOff := none,
      rescueRun := none, reviewPending := q.reviewPending } := by
  simp only [State.switchedAtOnce, State.selectorAtBest, if_neg h]

theorem State.switchedAtOnce_stayed (h : s.bestUsable e = q.active) : s.switchedAtOnce e q =
    { q with state := if s.bestUsable e = none then .noFeed else .primary, holdOff := none } := by
  simp only [State.switchedAtOnce, State.selectorAtBest, h, if_true]

/-- An active feed that is absent or not usable (R69; log 20). -/
theorem State.reviewed_unsettled (h : ¬∃ a, q.active = some a ∧ s.serves e a) :
    s.reviewed e p q = s.switchedAtOnce e { q with reviewPending := false } :=
  if_pos h

variable (settled : ∃ a, q.active = some a ∧ s.serves e a)

include settled

theorem State.reviewed_best (h : s.bestUsable e = q.active) :
    s.reviewed e p q = { q with reviewPending := false, state := .primary, holdOff := none } :=
  (if_neg (not_not_intro settled)).trans (if_pos h)

theorem State.reviewed_settled (h : s.bestUsable e ≠ q.active) : s.reviewed e p q =
    if p.revertive = false then { q with reviewPending := false, state := .backup, holdOff := none }
    else if q.holdOff.isSome = true then { q with reviewPending := false, state := .revertWait }
    else if 1 ≤ p.holdOff then
      { q with reviewPending := false, state := .revertWait, holdOff := some (s.elapsed + p.holdOff * 1000) }
    else s.switchedAtOnce e { q with reviewPending := false } :=
  (if_neg (not_not_intro settled)).trans (if_neg h)

omit settled in
/-- A stream whose active feed serves has a best usable feed (R63). -/
theorem State.bestUsable_found (settled : ∃ a, q.active = some a ∧ s.serves e a) : s.bestUsable e ≠ none := by
  obtain ⟨a, -, listed, usable⟩ := settled
  intro none
  exact List.find?_eq_none.1 none a listed usable

end Rows

/-- Settles O35: each row gives the selector, and the selector's active feed says whether there is a switch. -/
theorem reviewSettlesTheSelector : Obligations.ReviewSettlesTheSelector := by
  intro s i e p q hq pending lowest entry mode r best q0 kept moved settled
  have switches {q' : Selector} {run left : List Copy} (hr : reexamined r best run left) (hq' : s.reviewed e p q0 = q')
      (active : q'.active = best) (moves : best ≠ q.active) :
      exec .selectorReview s = .next (s.switching i e { r with selector := some q' } q.active run left) :=
    exec_selectorReview_switch hq entry mode pending lowest hq' (active ▸ moves.symm) (active ▸ hr)
  have keeps {q' : Selector} (hq' : s.reviewed e p q0 = q') (active : q'.active = q.active) :
      exec .selectorReview s = .next (kept q') :=
    exec_selectorReview_kept hq entry mode pending lowest hq' active
  have atOnce (move : best ≠ q.active) {st : SelectorState} (hst : (if best = none then .noFeed else .primary) = st) :
      s.switchedAtOnce e q0 = moved st := by
    rw [State.switchedAtOnce_moved (q := q0) move, hst]
  refine ⟨fun run left hr => ⟨fun out found move => ?_, fun out none_ had => ?_, fun on move revertive idle now => ?_⟩,
    fun none_ had => ?_, fun on best_ => ?_, fun on move fixed => ?_, fun on move revertive runs => ?_,
    fun on move revertive idle later => ?_⟩
  · exact switches hr ((State.reviewed_unsettled out).trans (atOnce move (if_neg (Option.isSome_iff_ne_none.1 found)))) rfl move
  · have move : best ≠ q.active := none_ ▸ had.symm
    exact switches hr ((State.reviewed_unsettled out).trans (atOnce move (if_pos none_))) rfl move
  · have row : s.reviewed e p q0 = s.switchedAtOnce e q0 := by
      rw [State.reviewed_settled (q := q0) on move, if_neg (by simp [revertive]), if_neg (by simp [q0, idle]), if_neg (by simp [now])]
    exact switches hr (row.trans (atOnce move (if_neg (State.bestUsable_found on)))) rfl move
  · have out : ¬settled := by
      rintro ⟨a, active, -⟩
      exact nomatch had.symm.trans active
    refine keeps (q' := { q0 with state := .noFeed, holdOff := none }) ((State.reviewed_unsettled out).trans ?_) rfl
    rw [State.switchedAtOnce_stayed (q := q0) (none_.trans had.symm), if_pos none_]
  · exact keeps (State.reviewed_best on best_) rfl
  · exact keeps ((State.reviewed_settled on move).trans (if_pos fixed)) rfl
  · exact keeps ((State.reviewed_settled on move).trans ((if_neg (by simp [revertive])).trans (if_pos runs))) rfl
  · exact keeps ((State.reviewed_settled on move).trans
      ((if_neg (by simp [revertive])).trans ((if_neg (by simp [idle])).trans (if_pos later)))) rfl

/-! ### The hold-off expiry (R71) -/

section HoldOff

variable {s : State} {i : Slot} {e : Entry} {p : SelectionPart} {q : Selector} {x : Moment}

theorem StreamView.immediateSwitch_eq (v : StreamView) (b : Bool) : v.immediateSwitch (s.streamCtx i e b) =
    v.setActive (s.streamCtx i e b) (s.bestUsable e) (if s.bestUsable e = none then .noFeed else .primary) none := by
  rw [StreamView.immediateSwitch, show (s.streamCtx i e b).best = s.bestUsable e from rfl]
  cases s.bestUsable e <;> rfl

theorem exec_holdOffExpiry (hq : (rd s.runtimes i).selector = some q) (timer : q.holdOff = some x) (now : x ≤ s.elapsed)
    (entry : s.enabledEntry i = some e) :
    exec (.holdOffExpiry i) s = .next (s.putStream i ((s.streamView i).expireHoldOff (s.streamCtx i e false))) := by
  have running : (rd s.runtimes i).selector.bind (·.holdOff) = some x := by rw [hq]; exact timer
  refine congrArg Host.Outcome.next ?_
  rw [State.holdOffExpiry, running]
  dsimp only
  rw [if_pos (show reached s.elapsed x = true from decide_eq_true now), State.onStream, entry]

end HoldOff

/-- Settles O36: the immediate switch, with the timer gone and review pending cleared. -/
theorem holdOffExpiryReturnsToBestFeed : Obligations.HoldOffExpiryReturnsToBestFeed := by
  intro s i e p q x hq timer now entry mode r best st moved
  rw [exec_holdOffExpiry hq timer now entry, StreamView.expireHoldOff, StreamView.immediateSwitch_eq]
  have stopped : ((s.streamView i).mapSelector fun q => { q with reviewPending := false, holdOff := none }).rt.selector =
      some { q with reviewPending := false, holdOff := none } := by
    change (rd s.runtimes i).selector.map _ = _
    rw [hq]
    rfl
  refine ⟨fun same => congrArg Host.Outcome.next ?_, fun run left hr move => congrArg Host.Outcome.next ?_⟩
  · rw [StreamView.setActive_stay _ _ _ _ _ _ stopped same.symm, StreamView.reexamine_unswitched _ _ rfl]
    exact s.putStream_record i _
  · rw [StreamView.setActive_switch _ _ _ _ _ _ stopped move.symm]
    have switch : switchNotice i e q.active best = [streamNotice i e .activeSwitch (feedOrNone q.active ++ feedOrNone best)] :=
      if_neg move.symm
    have event := State.putStream_switching (s := s) (i := i) (r := { r with selector := some moved }) (before := q.active) mode rfl hr
    rw [show ({ r with selector := some moved } : Runtime).active = best from rfl, switch] at event
    exact event

end Sys2Proof.Machine
end


section
/-! The statements on RESTART_STREAM and on the two levels of RESET_PART (sections 2.10, 9.4 and 9.5). -/

namespace Sys2Proof.Machine

/-! ### A stream put back into SEEKING (R44, R65) -/

section Sought

variable (s : State) (i : Slot) (e : Entry) (b : Bool) (v : StreamView)

/-- The selector of a stream put back into SEEKING: at its best usable feed (R65). -/
def State.soughtSelector (s : State) (e : Entry) (r : Runtime) : Option Selector :=
  match e.mode, r.selector with
  | .preferred _, some _ => some (s.selectorAtBest e)
  | _, q => q.map fun q => { q with holdOff := none, rescueRun := none, reviewPending := false }

/-- The record of a stream put back into SEEKING (R44). -/
def State.sought (s : State) (e : Entry) (r : Runtime) : Runtime :=
  { Runtime.disabled r.counters with mergeState := .seeking, selector := s.soughtSelector e r }

/-- The ACTIVE_SWITCH of a stream put back into SEEKING (R73). -/
def State.soughtNotice (s : State) (i : Slot) (e : Entry) (r : Runtime) : List Notice :=
  match e.mode, r.selector with
  | .preferred _, some q => switchNotice i e q.active (s.bestUsable e)
  | _, _ => []

theorem StreamView.restart_eq : v.restart (s.streamCtx i e b) = { v with
    rt := s.sought e v.rt
    pool := v.pool.freedIn b v.rt.hold.length
    raised := v.raised ++ ((v.pool.noted b).freedNotice v.rt.hold.length ++ s.soughtNotice i e v.rt)
    switched := (v.restart (s.streamCtx i e b)).switched } := by
  have flush : (v.flushHold (s.streamCtx i e b)) = { v with
      rt := { v.rt with hold := [] }
      pool := v.pool.freedIn b v.rt.hold.length
      raised := v.raised ++ (v.pool.noted b).freedNotice v.rt.hold.length } := StreamView.freeBuffers_eq s i e b _ _
  rw [StreamView.restart, flush, show (s.streamCtx i e b).entry.mode = e.mode from rfl]
  cases mode : e.mode with
  | first => simp [StreamView.mapRt, State.sought, State.soughtSelector, State.soughtNotice, mode]
  | preferred p =>
    cases hq : v.rt.selector with
    | none => simp [StreamView.mapRt, State.sought, State.soughtSelector, State.soughtNotice, mode, hq]
    | some q =>
      simp only [StreamView.mapRt, hq, Option.map_some, Option.isSome_some, if_true]
      rw [StreamView.immediateSwitch_eq]
      by_cases best : q.active = s.bestUsable e
      · rw [StreamView.setActive_stay _ _ { q with holdOff := none, rescueRun := none, reviewPending := false } _ _ _ rfl best]
        simp only [State.sought, State.soughtSelector, State.soughtNotice, mode, hq, switchNotice, if_true, List.append_nil,
          State.selectorAtBest, ← best]
      · rw [StreamView.setActive_switch _ _ { q with holdOff := none, rescueRun := none, reviewPending := false } _ _ _ rfl best]
        simp only [State.sought, State.soughtSelector, State.soughtNotice, mode, hq, switchNotice, if_neg best,
          State.selectorAtBest, List.append_assoc]
        rfl

end Sought

/-- Settles O51: the flush frees the hold list, and the selector is put at its best usable feed. -/
theorem restartStreamSeeksAgain : Obligations.RestartStreamSeeksAgain := by
  intro s c rest i hw hn code args r s' free recovers seeking
  have row : Instr.restartStream ∈ sessionCommands := by simp [sessionCommands]
  have answered {t : State} {res : ResultCode} (h : restartStreamBody c s' = answer t res []) :
      exec .restartStream s = .next (t.executed c res []) :=
    exec_next_answer (.inl row) (by simp [takesCommand, code]) hw hn h
  have restarts {e : Entry} (he : s.enabledEntry i = some e) : restartStreamBody c s' =
      answer (s'.putStream i ((s'.streamView i).restart (s'.streamCtx i e false))) .ok [] := by
    have live : s'.enabledEntry i = some e := he
    simp only [restartStreamBody, args, slotOf_slotByte, live, Option.isSome_some, if_true, State.onStream]
  have state {e : Entry} : s'.putStream i ((s'.streamView i).restart (s'.streamCtx i e false)) =
      seeking (s.soughtSelector e r) (s.soughtNotice i e r) := by
    have frees : (1 ≤ r.hold.length ∧ s.pool.pressure = true ∧ 32 ≤ s.pool.free + r.hold.length) ↔ recovers :=
      and_congr List.length_pos_iff Iff.rfl
    have pool : s.pool.freed r.hold.length = { free := free, pressure := if recovers then false else s.pool.pressure } :=
      congrArg (Pool.mk free) (if_congr frees rfl rfl)
    have notice : s.pool.freedNotice r.hold.length = poolRecovered recovers := if_congr frees rfl rfl
    simp only [seeking, ← pool, ← notice]
    rw [StreamView.restart_eq]
    exact s'.putStream_unlatched i _ rfl rfl
  refine ⟨fun empty => answered ?_, fun e he mode none_ => ?_, fun e p q he mode hq => ?_⟩
  · have dead : s'.enabledEntry i = none := empty
    simp [restartStreamBody, args, slotOf_slotByte, dead]
  · rw [answered (restarts he), state, State.soughtSelector, State.soughtNotice, mode, none_]
    rfl
  · rw [answered (restarts he), state, State.soughtSelector, State.soughtNotice, mode, hq]

/-! ### Every stream put back into SEEKING (R143 step 3) -/

/-- The record of slot `i` after a restart of its stream; a slot without an ENABLED live entry keeps its record. -/
def State.soughtRecord (s : State) (i : Slot) : Runtime :=
  match s.enabledEntry i with
  | none => rd s.runtimes i
  | some e => s.sought e (rd s.runtimes i)

/-- The notices of that restart. -/
def State.soughtNotices (s : State) (i : Slot) : List Notice :=
  match s.enabledEntry i with
  | none => []
  | some e => s.soughtNotice i e (rd s.runtimes i)

theorem NoticeUnit.raising_nil (u : NoticeUnit) : u.raising [] = u := by rw [NoticeUnit.raising, List.append_nil]

theorem NoticeUnit.raising_raising (u : NoticeUnit) (a b : List Notice) : (u.raising a).raising b = u.raising (a ++ b) := by
  rw [NoticeUnit.raising, NoticeUnit.raising, NoticeUnit.raising, List.append_assoc]

/-- A flag that is not tested raises nothing. -/
theorem Pool.freedNotice_noted (p : Pool) (n : Nat) : (p.noted true).freedNotice n = [] := by
  simp [Pool.noted, Pool.freedNotice, poolRecovered]

section Congr

variable {s t : State} {i : Slot} (entry : t.enabledEntry i = s.enabledEntry i) (monitors : t.monitors = s.monitors)
  (record : rd t.runtimes i = rd s.runtimes i)

include entry monitors record

theorem State.soughtRecord_congr : t.soughtRecord i = s.soughtRecord i := by
  have best (e : Entry) : t.bestUsable e = s.bestUsable e := by simp only [State.bestUsable, monitors]
  simp only [State.soughtRecord, entry, record, State.sought, State.soughtSelector, State.selectorAtBest, best]

theorem State.soughtNotices_congr : t.soughtNotices i = s.soughtNotices i := by
  have best (e : Entry) : t.bestUsable e = s.bestUsable e := by simp only [State.bestUsable, monitors]
  simp only [State.soughtNotices, entry, record, State.soughtNotice, best]

end Congr

/-- The restart of one slot's stream within an event that tests the flag at its end. -/
theorem State.restartSlot_eq (s : State) (i : Slot) : ∃ free, (s.onStream i true fun c v => v.restart c) = { s with
    runtimes := wr s.runtimes i (s.soughtRecord i), pool := { s.pool with free := free }
    notices := s.notices.raising (s.soughtNotices i) } := by
  rw [State.onStream, State.soughtRecord, State.soughtNotices]
  cases s.enabledEntry i with
  | none => exact ⟨s.pool.free, by simp only [wr_rd, NoticeUnit.raising_nil]⟩
  | some e =>
    refine ⟨s.pool.free + (rd s.runtimes i).hold.length, ?_⟩
    dsimp only
    rw [StreamView.restart_eq]
    exact s.putStream_unlatched i _ rfl (by rw [Pool.freedNotice_noted]; rfl)

/-- The restarts of distinct slots do not look at each other's records. -/
theorem State.restartSlots_eq (s : State) (l : List Slot) (distinct : l.Nodup) : ∃ rts free,
    l.foldl (fun t i => t.onStream i true fun c v => v.restart c) s = { s with
      runtimes := rts, pool := { s.pool with free := free }, notices := s.notices.raising (l.flatMap s.soughtNotices) } ∧
    ∀ i, rd rts i = if i ∈ l then s.soughtRecord i else rd s.runtimes i := by
  induction l generalizing s with
  | nil => exact ⟨s.runtimes, s.pool.free, by simp [NoticeUnit.raising_nil], fun i => by simp⟩
  | cons j l ih =>
    obtain ⟨apart, distinct⟩ := List.nodup_cons.1 distinct
    obtain ⟨free, step⟩ := s.restartSlot_eq j
    set t := s.onStream j true fun c v => v.restart c
    obtain ⟨rts, free', rest, records⟩ := ih t distinct
    have record (i : Slot) : rd t.runtimes i = if i = j then s.soughtRecord j else rd s.runtimes i := by
      rw [step]; exact rd_wr _ _ _ _
    have other {i : Slot} (h : i ∈ l) : rd t.runtimes i = rd s.runtimes i :=
      (record i).trans (if_neg fun same : i = j => apart (same ▸ h))
    have entry (i : Slot) : t.enabledEntry i = s.enabledEntry i := by rw [step]; rfl
    have monitors : t.monitors = s.monitors := by rw [step]
    refine ⟨rts, free', ?_, fun i => ?_⟩
    · rw [List.foldl_cons, rest, List.flatMap_congr fun i h => State.soughtNotices_congr (entry i) monitors (other h), step,
        NoticeUnit.raising_raising, List.flatMap_cons]
    · rw [records]
      by_cases member : i ∈ l
      · rw [if_pos member, if_pos (List.mem_cons_of_mem j member), State.soughtRecord_congr (entry i) monitors (other member)]
      · rw [if_neg member, record]
        by_cases same : i = j
        · rw [if_pos same, same, if_pos List.mem_cons_self]
        · rw [if_neg same, if_neg (by simp [same, member])]

theorem State.restartStreams_eq (s : State) : ∃ rts free, s.restartStreams = { s with
      runtimes := rts, pool := { s.pool with free := free }
      notices := s.notices.raising (allSlots.flatMap s.soughtNotices) } ∧
    ∀ i, rd rts i = s.soughtRecord i := by
  obtain ⟨rts, free, eq, records⟩ := s.restartSlots_eq allSlots (List.nodup_finRange 256)
  exact ⟨rts, free, eq, fun i => (records i).trans (if_pos (List.mem_finRange i))⟩

/-! ### RESET_PART, level RESTART (R143) -/

/-- The commits in hand are answered ABORTED (R156). -/
def State.abortedFrames (s : State) : List Frame :=
  s.engine.abandoned.map fun k => replyFrame { token := k.token, seq := k.seq, code := 0x33, result := .aborted, data := [] }

theorem State.abandonCommits_eq (s : State) : s.abandonCommits = s.abortedFrames.foldl State.sending s := by
  rw [State.abandonCommits, State.abortedFrames, List.foldl_map]
  refine congrArg (fun g => List.foldl g s s.engine.abandoned) ?_
  funext t k
  exact t.placeReply_eq _

/-- The abandoned commits and the rebuilt standby bank (R143 steps 1 and 2). -/
theorem State.rebuilt_eq (s : State) : s.abandonCommits.rebuildStandby = { s with
    bankA := s.liveBank, bankB := s.liveBank, engine := .ready
    delivery := (s.abortedFrames.foldl State.sending s).delivery } := by
  obtain ⟨d, sent⟩ := s.abandonCommits_change
  rw [← s.abandonCommits_eq, sent]
  cases live : s.live <;> simp only [State.rebuildStandby, State.setStandby, State.liveBank, live]

theorem State.abortedFrames_flushed (s : State) :
    (s.abortedFrames.foldl State.sending s).delivery.flushed = s.delivery.flushed := by
  obtain ⟨cq, rw_, sent⟩ := s.abandonCommits_queues
  rw [← s.abandonCommits_eq, sent]

/-- A RESTART (R143 steps 1 to 3). -/
theorem State.restartPart_eq (s : State) : ∃ rts free,
    s.restartPart = { s with
      bankA := s.liveBank, bankB := s.liveBank, engine := .ready, runtimes := rts, dataQueue := []
      pool := { free := free, pressure := if s.pool.pressure = true ∧ 32 ≤ free then false else s.pool.pressure }
      delivery := { (s.abortedFrames.foldl State.sending s).delivery with
        flushed := satAdd s.delivery.flushed s.dataQueue.length }
      notices := s.notices.raising (allSlots.flatMap s.soughtNotices ++
        poolRecovered (s.pool.pressure = true ∧ 32 ≤ free)) } ∧
    ∀ i, rd rts i = s.soughtRecord i := by
  have rebuilt := s.rebuilt_eq
  have flushed := s.abortedFrames_flushed
  obtain ⟨rts, free, restarted, records⟩ := s.abandonCommits.rebuildStandby.restartStreams_eq
  have entry (i : Slot) : s.abandonCommits.rebuildStandby.enabledEntry i = s.enabledEntry i := by
    have bank : s.abandonCommits.rebuildStandby.liveBank = s.liveBank := by
      rw [rebuilt, State.liveBank]; cases s.live <;> rfl
    rw [State.enabledEntry, State.liveEntry, bank]
    rfl
  have monitors : s.abandonCommits.rebuildStandby.monitors = s.monitors := by rw [rebuilt]
  have record (i : Slot) : rd s.abandonCommits.rebuildStandby.runtimes i = rd s.runtimes i := by rw [rebuilt]
  refine ⟨rts, free + s.dataQueue.length, ?_, fun i =>
    (records i).trans (State.soughtRecord_congr (entry i) monitors (record i))⟩
  rw [List.flatMap_congr fun i _ => State.soughtNotices_congr (entry i) monitors (record i), rebuilt] at restarted
  rw [State.restartPart, rebuilt, restarted]
  simp only [State.flushData, State.testPool, State.raiseAll, Pool.tested_eq, NoticeUnit.raising, flushed, List.append_assoc]

theorem State.flushData_buffers (s : State) : s.flushData.buffers = s.buffers := by
  simp only [State.flushData, State.testPool, State.raiseAll, State.buffers, State.heldEntries, Pool.tested_free, List.length_nil]
  omega

theorem State.restartPart_buffers (s : State) : s.restartPart.buffers = s.buffers := by
  rw [State.restartPart, State.flushData_buffers, State.restartStreams_buffers, State.rebuilt_eq]
  rfl

/-- Settles O53: the records are those of the restarted streams, and the flag is tested once after all the frees. -/
theorem restartSeeksEveryStream : Obligations.RestartSeeksEveryStream := by
  intro s c rest level hw hn code args s' aborted switched
  have row : Instr.resetPartRestart ∈ sessionCommands := by simp [sessionCommands]
  have takes (h : level ≠ 2) : takesCommand .resetPartRestart c = true := by simpa [takesCommand, code, args] using h
  refine ⟨fun no1 no2 => ?_, fun one => ?_⟩
  · exact exec_next_answer (.inl row) (takes no2) hw hn (resetRestartBody_wrongLevel s' (by simpa [args] using no1))
  · obtain ⟨rts, free, restarted, records⟩ := s'.restartPart_eq
    have buffers := s'.restartPart_buffers
    have notices : switched = s'.soughtNotices := by
      funext i
      simp only [switched, State.soughtNotices, State.soughtNotice]
      rfl
    refine ⟨s'.restartPart, exec_next_answer (.inl row) (takes (one ▸ by decide)) hw hn ?_, ?_, ?_, ?_, fun i => ?_⟩
    · refine (if_pos (by rw [args, one])).trans ?_
      rw [restarted]
      rfl
    · rw [notices, restarted]
      rfl
    · have flushed : s'.restartPart.dataQueue = [] := by rw [restarted]
      rw [State.buffers, flushed, List.length_nil, Nat.add_zero] at buffers
      exact buffers
    · have flag := Pool.tested_pressure { free := free, pressure := s.pool.pressure }
      rw [Pool.tested_eq] at flag
      rw [restarted]
      exact flag
    · have record : rd s'.restartPart.runtimes i = s'.soughtRecord i := by rw [restarted]; exact records i
      rw [record]
      refine ⟨fun dead => ?_, fun e he mode none_ => ?_, fun e p q he mode hq => ?_⟩
      · simp only [State.soughtRecord, show s'.enabledEntry i = none from dead]
        rfl
      · simp only [State.soughtRecord, show s'.enabledEntry i = some e from he, State.sought, State.soughtSelector, mode,
          show (rd s'.runtimes i).selector = none from none_]
        rfl
      · simp only [State.soughtRecord, show s'.enabledEntry i = some e from he, State.sought, State.soughtSelector, mode,
          show (rd s'.runtimes i).selector = some q from hq]
        rfl

end Sys2Proof.Machine
end


section
/-! The statement on RESET_PART, level CLEAR (section 9.5). -/

namespace Sys2Proof.Machine

/-! ### The feed monitors restarted (R92, R144 step 5) -/

/-- Settings with advisory clear make no feed outside IN_SERVICE usable (R87). -/
theorem Monitor.restart_usability (now : Moment) (m : Monitor) : (m.restart now).usability = false := by
  cases link : m.link <;> simp [Monitor.restart, link, Monitor.usability, Monitor.reset, Settings.reset,
    Monitor.startWindow, Monitor.adopt]

/-- The notice of a feed that was usable (R88). -/
def resetNotice (f : Feed) : Notice := ⟨.feedUnusable, .feed f, 0xFFFF, 0x0400⟩

theorem State.restartMonitor_eq (s : State) (f : Feed) : s.restartMonitor f = { s with
    monitors := wr s.monitors f { (rd s.monitors f).restart s.elapsed with usable := false }
    feedEvents := wr s.feedEvents f
      (if (rd s.monitors f).usable then rd s.feedEvents f + 1 else rd s.feedEvents f)
    feedLatches := wr s.feedLatches f true
    notices := s.notices.raising (if (rd s.monitors f).usable then [resetNotice f] else []) } := by
  have out := Monitor.restart_usability s.elapsed (rd s.monitors f)
  rw [State.restartMonitor]
  cases usable : (rd s.monitors f).usable with
  | false =>
    rw [State.publish_same s f _ _ (usable.trans out.symm), out]
    simp [State.setFeedLatch, State.setMonitor, NoticeUnit.raising_nil]
  | true =>
    rw [State.publish_down s f _ _ usable out]
    simp only [State.setFeedLatch, State.setMonitor, wr_wr, if_true]
    rfl

/-- The restarts of distinct monitors do not look at each other's records. -/
theorem State.restartMonitorsOf_eq (s : State) (l : List Feed) (distinct : l.Nodup) :
    l.foldl State.restartMonitor s = { s with
      monitors := tab fun f =>
        if f ∈ l then { (rd s.monitors f).restart s.elapsed with usable := false } else rd s.monitors f
      feedEvents := tab fun f =>
        if f ∈ l ∧ (rd s.monitors f).usable = true then rd s.feedEvents f + 1 else rd s.feedEvents f
      feedLatches := tab fun f => if f ∈ l then true else rd s.feedLatches f
      notices := s.notices.raising ((l.filter fun f => (rd s.monitors f).usable).map resetNotice) } := by
  induction l generalizing s with
  | nil =>
    have same {α : Type} (v : Vector α 4) : tab (rd v) = v := table_ext fun i => rd_tab _ i
    simp [NoticeUnit.raising_nil, same]
  | cons j l ih =>
    obtain ⟨apart, distinct⟩ := List.nodup_cons.1 distinct
    have step := s.restartMonitor_eq j
    rw [List.foldl_cons, ih (s.restartMonitor j) distinct]
    set t := s.restartMonitor j
    have own {α : Type} (v : Vector α 4) (x : α) (g : Feed) : rd (wr v j x) g = if g = j then x else rd v g := rd_wr v j g x
    have usable {f : Feed} (h : f ∈ l) : (rd t.monitors f).usable = (rd s.monitors f).usable := by
      rw [step, own, if_neg fun same : f = j => apart (same ▸ h)]
    have monitors : (tab fun f => if f ∈ l then { (rd t.monitors f).restart t.elapsed with usable := false } else rd t.monitors f)
        = tab fun f => if f ∈ j :: l then { (rd s.monitors f).restart s.elapsed with usable := false } else rd s.monitors f := by
      refine congrArg tab (funext fun f => ?_)
      rw [step, own]
      by_cases same : f = j
      · rw [same, if_neg apart, if_pos rfl, if_pos List.mem_cons_self]
      · simp only [List.mem_cons, same, false_or, if_false]
    have feedEvents : (tab fun f => if f ∈ l ∧ (rd t.monitors f).usable = true then rd t.feedEvents f + 1 else rd t.feedEvents f)
        = tab fun f => if f ∈ j :: l ∧ (rd s.monitors f).usable = true then rd s.feedEvents f + 1 else rd s.feedEvents f := by
      refine congrArg tab (funext fun f => ?_)
      rw [step, own, own]
      by_cases same : f = j
      · simp only [same, apart, false_and, if_false, if_true, List.mem_cons_self, true_and]
      · simp only [List.mem_cons, same, false_or, if_false]
    have latches : (tab fun f => if f ∈ l then true else rd t.feedLatches f) =
        tab fun f => if f ∈ j :: l then true else rd s.feedLatches f := by
      refine congrArg tab (funext fun f => ?_)
      rw [step, own]
      by_cases same : f = j
      · simp only [same, if_true, List.mem_cons_self, ite_self]
      · simp only [List.mem_cons, same, false_or, if_false]
    have notices : t.notices.raising ((l.filter fun f => (rd t.monitors f).usable).map resetNotice) =
        s.notices.raising (((j :: l).filter fun f => (rd s.monitors f).usable).map resetNotice) := by
      rw [List.filter_congr fun f h => usable h, step, NoticeUnit.raising_raising, List.filter_cons]
      cases (rd s.monitors j).usable <;> rfl
    rw [monitors, feedEvents, latches, notices, step]

/-! ### The replies at a CLEAR (R112, R116, R144) -/

/-- Replies handed over while none waits and the control queue has places for all. -/
theorem State.sendAll_eq (frames : List Frame) (s : State) (waiting : s.delivery.replyWait = [])
    (places : s.delivery.controlQueue.length + frames.length ≤ 8) :
    frames.foldl State.sending s = { s with delivery := { s.delivery with
      controlQueue := if s.delivery.linkUp = true then s.delivery.controlQueue ++ frames else s.delivery.controlQueue } } := by
  induction frames generalizing s with
  | nil => simp
  | cons x l ih =>
    rw [List.length_cons] at places
    rw [List.foldl_cons]
    cases up : s.delivery.linkUp with
    | false =>
      have nothing : s.sending x = s := by rw [State.sending, if_pos up]
      rw [nothing, ih s waiting (by omega), up]
      rfl
    | true =>
      have placed : s.sending x = { s with delivery := { s.delivery with
          controlQueue := s.delivery.controlQueue ++ [x] } } := by
        rw [State.sending, if_neg (by simp [up]), if_pos ⟨waiting, by omega⟩]
      have waiting' : (s.sending x).delivery.replyWait = [] := by rw [placed]; exact waiting
      have places' : (s.sending x).delivery.controlQueue.length + l.length ≤ 8 := by rw [placed]; simp; omega
      rw [ih _ waiting' places', placed]
      simp [up]

theorem State.abortedFrames_length (s : State) : s.abortedFrames.length ≤ 1 := by
  rw [State.abortedFrames, List.length_map]
  cases s.engine with
  | ready => exact Nat.zero_le 1
  | preparing c p => exact Nat.le_refl 1
  | syncing cs q => cases q <;> simp [EngineState.abandoned]

/-- The control queues emptied, and the commit in hand answered ABORTED (R144 steps 1 and 2). -/
theorem State.dropped_eq (s : State) : s.dropControl.abandonCommits = { s with delivery := { s.delivery with
    controlQueue := if s.delivery.linkUp = true then s.abortedFrames else [], replyWait := [] } } := by
  rw [State.abandonCommits_eq, State.sendAll_eq _ _ rfl ((Nat.zero_add _).trans_le (s.abortedFrames_length.trans (by decide)))]
  rfl

/-- A restarted monitor without its counters is at its power-on values, in PROBATION with its first window where the link is
up (R92). -/
theorem Monitor.restart_cleared (now : Moment) (m : Monitor) :
    { m.restart now with usable := false, counters := FeedCounters.zero } =
      if m.link then
        { Monitor.reset with
          link := true, state := .probation, window := some { expiry := now + 10000, valid := 0, errored := 0 } }
      else Monitor.reset := by
  cases link : m.link with
  | false => simp [Monitor.restart, link, Monitor.reset]
  | true => simp [Monitor.restart, link, Monitor.reset, Monitor.startWindow, Monitor.adopt, after, Settings.reset]

/-- A CLEAR (R144 steps 1 to 6). -/
theorem State.clearPart_eq (s : State) : s.clearPart = { s with
    monitors := tab fun f =>
      if (rd s.monitors f).link then
        { Monitor.reset with
          link := true, state := .probation, window := some { expiry := s.elapsed + 10000, valid := 0, errored := 0 } }
      else Monitor.reset
    feedEvents := tab fun f => if (rd s.monitors f).usable then rd s.feedEvents f + 1 else rd s.feedEvents f
    bankA := Bank.empty, bankB := Bank.empty, live := .a, generation := 0, engine := .ready
    runtimes := tab fun _ => Runtime.disabled StreamCounters.zero
    pool := { free := s.pool.free + s.heldEntries + s.dataQueue.length, pressure := false }
    dataQueue := []
    delivery := { s.delivery with
      controlQueue := if s.delivery.linkUp = true then s.abortedFrames else [], replyWait := []
      dataRun := 0, errored := 0, foreign := 0, flushed := 0 }
    inboxOverflows := 0
    notices := (NoticeUnit.start s.notices.stillDue s.elapsed).raising
      ((allFeeds.filter fun f => (rd s.monitors f).usable).map resetNotice)
    feedLatches := tab fun _ => true
    streamLatches := tab fun _ => false } := by
  have member (f : Feed) : f ∈ allFeeds := List.mem_finRange f
  have restarted := State.restartMonitorsOf_eq s.dropControl.abandonCommits.clearStreams.clearNotices allFeeds
    (List.nodup_finRange 4)
  simp only [member, if_true, true_and] at restarted
  rw [State.clearPart, State.restartMonitors, restarted, State.dropped_eq]
  simp only [State.clearPartCounters, State.clearAllFeedCounters, rd_tab, ← Monitor.restart_cleared]
  rfl

/-- A reply that finds no reply waiting and a place in the control queue (R112, R116). -/
theorem State.replied_placed (t : State) (c : Command) (r : ResultCode) (d : List Byte)
    (waiting : t.delivery.replyWait = []) (places : t.delivery.controlQueue.length + 1 ≤ 8) :
    t.replied c r d = { t with delivery := { t.delivery with
      controlQueue := if t.delivery.linkUp = true then t.delivery.controlQueue ++
          [replyFrame { token := c.token, seq := c.seq, code := c.code, result := r, data := d }]
        else t.delivery.controlQueue } } :=
  State.sendAll_eq [_] t waiting places

/-- A CLEAR and the reply to it, which finds a place behind the ABORTED (R144 steps 1 to 7). -/
theorem State.clearPart_replied (s : State) (c : Command) (d : List Byte) : s.clearPart.replied c .ok d =
    { s.clearPart with delivery := { s.delivery with
      controlQueue := if s.delivery.linkUp = true then s.abortedFrames ++
          [replyFrame { token := c.token, seq := c.seq, code := c.code, result := .ok, data := d }]
        else []
      replyWait := [], dataRun := 0, errored := 0, foreign := 0, flushed := 0 } } := by
  have few := s.abortedFrames_length
  have delivery : s.clearPart.delivery = { s.delivery with
      controlQueue := if s.delivery.linkUp = true then s.abortedFrames else [], replyWait := []
      dataRun := 0, errored := 0, foreign := 0, flushed := 0 } := by rw [s.clearPart_eq]
  have places : s.clearPart.delivery.controlQueue.length + 1 ≤ 8 := by
    rw [delivery]
    dsimp only
    split
    · omega
    · exact Nat.le_of_ble_eq_true rfl
  rw [State.replied_placed _ c .ok d (by rw [delivery]) places, delivery]
  dsimp only
  split <;> rfl

/-- A command whose execution closes the session after its reply has been handed over (R129). -/
theorem executeSequenced_closes {b : Command → State → CommandEffect} {c : Command} {s t : State} {r : ResultCode}
    {d : List Byte} (h : b c s = { state := t, reply := some (r, d), closes := true }) :
    executeSequenced b c s = { t.replied c r d with session := none } := by
  simp only [executeSequenced, h, if_true, State.placeReply_eq]
  rfl

/-- Settles O54: each step of the CLEAR as one change of the state, and the session closed after the reply. -/
theorem clearEmptiesThePart : Obligations.ClearEmptiesThePart := by
  intro s c rest hw hn code args aborted done lost
  have row : Instr.resetPartClear ∈ sessionCommands := by simp [sessionCommands]
  have body : commandBody .resetPartClear c (s.inboxLeft rest) =
      { state := (s.inboxLeft rest).clearPart, reply := some (.ok, [2, 0, 0, 0, 0]), closes := true } := by
    have generation : (s.inboxLeft rest).clearPart.generation = 0 := by rw [State.clearPart_eq]
    simp only [commandBody, resetClearBody, generation]
    rfl
  rw [exec_next (.inl row) (by simp [takesCommand, code, args]) hw hn, executeSequenced_closes body,
    State.clearPart_replied, State.clearPart_eq, code]
  obtain ⟨noReply, -⟩ := hw
  have idle : s.delivery = { s.delivery with replyWait := [] } := by rw [← noReply]
  refine congrArg Host.Outcome.next ?_
  rw [idle]
  rfl

end Sys2Proof.Machine
end


section
/-! The statement on the swap (section 10.5). -/

namespace Sys2Proof.Machine

/-! ### An event that leaves the test of the pressure flag to its end (R110, R152) -/

/-- Neither the pressure flag nor the stream's latch has changed. -/
def StreamView.SameFlags (v w : StreamView) : Prop := w.pool.pressure = v.pool.pressure ∧ w.latch = v.latch

theorem StreamView.SameFlags.trans {u v w : StreamView} (h : u.SameFlags v) (g : v.SameFlags w) : u.SameFlags w :=
  ⟨g.1.trans h.1, g.2.trans h.2⟩

section Untested

variable (c : StreamCtx) (v : StreamView)

theorem StreamView.setActive_flags (dest : Option Feed) (st : SelectorState) (timer : Option Moment) :
    v.SameFlags (v.setActive c dest st timer) := by
  rw [StreamView.setActive]
  split <;> exact ⟨rfl, rfl⟩

theorem StreamView.immediateSwitch_flags : v.SameFlags (v.immediateSwitch c) := by
  rw [StreamView.immediateSwitch]
  split <;> exact v.setActive_flags c _ _ _

theorem StreamView.evaluate_flags (p : SelectionPart) : v.SameFlags (v.evaluate c p) := by
  rw [StreamView.evaluate]
  split
  · exact ⟨rfl, rfl⟩
  · split
    · exact v.immediateSwitch_flags c
    · split
      · exact v.immediateSwitch_flags c
      · exact v.setActive_flags c _ _ _

theorem StreamView.reportRescue_flags (g : Feed) : v.SameFlags (v.reportRescue c g) := by
  rw [StreamView.reportRescue]
  split
  · split
    · exact ⟨rfl, rfl⟩
    · split
      · exact v.setActive_flags c _ _ _
      · exact ⟨rfl, rfl⟩
  · exact ⟨rfl, rfl⟩

variable {c} (untested : c.deferTest = true)

include untested

theorem StreamView.freeBuffers_flags (n : Nat) : v.SameFlags (v.freeBuffers c n) := by
  rw [StreamView.freeBuffers, if_pos untested]
  split <;> exact ⟨rfl, rfl⟩

theorem StreamView.deliver_flags (f : Frame) : v.SameFlags (v.deliver c f) := by
  rw [StreamView.deliver]
  split
  · exact ⟨rfl, rfl⟩
  · exact StreamView.freeBuffers_flags _ untested 1

theorem StreamView.release_flags (copy : Copy) (resync seek : Bool) : v.SameFlags (v.release c copy resync seek) := by
  rw [StreamView.release]
  split
  · refine .trans ?_ (StreamView.reportRescue_flags c _ _)
    exact StreamView.deliver_flags _ untested _
  · exact StreamView.deliver_flags _ untested _

theorem StreamView.releaseRun_flags (any : Bool) (l : List Copy) : v.SameFlags (v.releaseRun c any l) := by
  induction l generalizing v with
  | nil => exact ⟨rfl, rfl⟩
  | cons h rest ih =>
    rw [StreamView.releaseRun]
    split
    · refine .trans ?_ (ih _)
      exact StreamView.release_flags _ untested h false false
    · exact ⟨rfl, rfl⟩

theorem StreamView.reexamine_flags : v.SameFlags (v.reexamine c) := by
  rw [StreamView.reexamine]
  split
  · exact ⟨rfl, rfl⟩
  · split
    · rw [StreamView.closeArrival_eq]
      exact StreamView.releaseRun_flags v untested false _
    · exact ⟨rfl, rfl⟩

theorem StreamView.retune_flags : v.SameFlags (v.retune c) := by
  rw [StreamView.retune]
  split
  · exact StreamView.freeBuffers_flags _ untested _
  · refine .trans (.trans ?_ (StreamView.evaluate_flags c _ _)) (StreamView.reexamine_flags _ untested)
    exact StreamView.freeBuffers_flags _ untested _

theorem StreamView.initialise_pressure : (v.initialise c).pool.pressure = v.pool.pressure :=
  (StreamView.freeBuffers_flags _ untested _).1

end Untested

/-! ### The change classes of a swap, one slot at a time (R153) -/

section Classes

variable (s : State)

theorem State.applyClass_pressure (i : Slot) (old : Option Entry) :
    (s.applyClass i old).pool.pressure = s.pool.pressure := by
  have event (g : StreamCtx → StreamView → StreamView)
      (hg : ∀ c v, c.deferTest = true → (g c v).pool.pressure = v.pool.pressure) :
      (s.onStream i true g).pool.pressure = s.pool.pressure := by
    rw [State.onStream]
    split
    · exact hg _ _ rfl
    · rfl
  rw [State.applyClass]
  split
  · exact event _ fun c v h => v.initialise_pressure h
  · split
    · exact event _ fun c v h => (v.retune_flags h).1
    · exact event _ fun c v h => v.initialise_pressure h
  · rfl
  · split <;> rfl

theorem State.applyClasses_pressure (old : Bank) (cs : List StagedChange) :
    (s.applyClasses old cs).pool.pressure = s.pool.pressure := by
  induction cs generalizing s with
  | nil => rfl
  | cons x t ih => exact (ih _).trans (s.applyClass_pressure x.slot _)

/-- A change class touches its own slot's record and latch only. -/
theorem State.applyClass_latch_ne (i : Slot) (old : Option Entry) {j : Slot} (h : j ≠ i) :
    rd (s.applyClass i old).streamLatches j = rd s.streamLatches j := by
  have event (g : StreamCtx → StreamView → StreamView) :
      rd (s.onStream i true g).streamLatches j = rd s.streamLatches j := by
    rw [State.onStream]
    split
    · exact rd_wr_ne _ _ h
    · rfl
  rw [State.applyClass]
  split
  · exact event _
  · split <;> exact event _
  · rfl
  · split <;> rfl

theorem State.applyClasses_untouched (old : Bank) (cs : List StagedChange) {i : Slot} (h : ∀ x ∈ cs, x.slot ≠ i) :
    rd (s.applyClasses old cs).runtimes i = rd s.runtimes i ∧
      rd (s.applyClasses old cs).streamLatches i = rd s.streamLatches i := by
  induction cs generalizing s with
  | nil => exact ⟨rfl, rfl⟩
  | cons x t ih =>
    have other : i ≠ x.slot := (h x List.mem_cons_self).symm
    obtain ⟨record, latch⟩ := ih (s.applyClass x.slot (rd old.slots x.slot)) fun y hy => h y (List.mem_cons_of_mem x hy)
    exact ⟨record.trans (s.applyClass_runtime_ne _ _ other), latch.trans (s.applyClass_latch_ne _ _ other)⟩

/-- A touched slot's record and latch are what its change class makes of them, at a moment of the swap when they and the table
are still as they were. -/
theorem State.applyClasses_touched (old : Bank) (cs : List StagedChange) (distinct : (cs.map (·.slot)).Nodup) {i : Slot}
    (h : ∃ x ∈ cs, x.slot = i) : ∃ t, StreamChange s t ∧ rd t.runtimes i = rd s.runtimes i ∧
      rd t.streamLatches i = rd s.streamLatches i ∧
      StreamChange (t.applyClass i (rd old.slots i)) (s.applyClasses old cs) ∧
      rd (s.applyClasses old cs).runtimes i = rd (t.applyClass i (rd old.slots i)).runtimes i ∧
      rd (s.applyClasses old cs).streamLatches i = rd (t.applyClass i (rd old.slots i)).streamLatches i := by
  induction cs generalizing s with
  | nil => obtain ⟨x, member, -⟩ := h; exact nomatch member
  | cons y l ih =>
    rw [List.map_cons, List.nodup_cons] at distinct
    obtain ⟨apart, distinct⟩ := distinct
    by_cases same : y.slot = i
    · subst same
      have rest := State.applyClasses_untouched (s.applyClass y.slot (rd old.slots y.slot)) old l fun x hx same =>
        apart (List.mem_map.2 ⟨x, hx, same⟩)
      exact ⟨s, .refl s, rfl, rfl, State.applyClasses_change old l _, rest.1, rest.2⟩
    · have later : ∃ x ∈ l, x.slot = i := by
        obtain ⟨x, member, slot⟩ := h
        exact ⟨x, (List.mem_cons.1 member).resolve_left fun first => same (first ▸ slot), slot⟩
      obtain ⟨t, change, record, latch, after⟩ := ih (s.applyClass y.slot (rd old.slots y.slot)) distinct later
      have other : i ≠ y.slot := Ne.symm same
      exact ⟨t, (s.applyClass_change _ _).trans change, record.trans (s.applyClass_runtime_ne _ _ other),
        latch.trans (s.applyClass_latch_ne _ _ other), after⟩

end Classes

/-! ### What each change class makes of a record (R153, R154) -/

section Rows

variable {s : State} {i : Slot} {old : Option Entry} {o e : Entry}

theorem Mode.same_iff (m n : Mode) : m.same n = true ↔ (m = .first ↔ n = .first) := by
  cases m <;> cases n <;> simp [Mode.same]

theorem State.onStream_live (he : s.enabledEntry i = some e) (b : Bool) (g : StreamCtx → StreamView → StreamView) :
    s.onStream i b g = s.putStream i (g (s.streamCtx i e b) (s.streamView i)) := by
  rw [State.onStream, he]

theorem State.applyClass_initialises (he : s.enabledEntry i = some e)
    (ho : old.filter (·.enabled) = none ∨ ∃ o, old.filter (·.enabled) = some o ∧
      (o.tag ≠ e.tag ∨ (o.mode = .first ↔ e.mode ≠ .first))) :
    s.applyClass i old = s.putStream i ((s.streamView i).initialise (s.streamCtx i e true)) := by
  rw [State.applyClass, he]
  rcases ho with none | ⟨o, some_, unlike⟩
  · rw [none]
    exact State.onStream_live he true _
  · have changed : ¬(o.tag = e.tag ∧ o.mode.same e.mode = true) := by
      rw [Mode.same_iff]
      tauto
    rw [some_]
    dsimp only
    rw [if_neg changed]
    exact State.onStream_live he true _

theorem State.applyClass_retunes (he : s.enabledEntry i = some e) (ho : old.filter (·.enabled) = some o)
    (tag : o.tag = e.tag) (mode : o.mode = .first ↔ e.mode = .first) :
    s.applyClass i old = s.putStream i ((s.streamView i).retune (s.streamCtx i e true)) := by
  rw [State.applyClass, he, ho]
  dsimp only
  rw [if_pos ⟨tag, (Mode.same_iff _ _).2 mode⟩]
  exact State.onStream_live he true _

theorem State.applyClass_stops (he : s.enabledEntry i = none) (ho : old.filter (·.enabled) = some o) :
    s.applyClass i old =
      s.stopStream i (if (s.liveEntry i).isSome then (rd s.runtimes i).counters else StreamCounters.zero) := by
  rw [State.applyClass, he, ho]

theorem State.applyClass_idle (he : s.enabledEntry i = none) (ho : old.filter (·.enabled) = none) :
    s.applyClass i old =
      if (s.liveEntry i).isSome then s else s.setRuntime i { rd s.runtimes i with counters := StreamCounters.zero } := by
  rw [State.applyClass, he, ho]

/-- The selector part of a new runtime (R64). -/
theorem State.startSelector_eq (s : State) (i : Slot) (e : Entry) (b : Bool) :
    (s.streamCtx i e b).startSelector = if e.mode = .first then none else some (s.selectorAtBest e) := by
  rw [StreamCtx.startSelector, State.selectorAtBest, show (s.streamCtx i e b).best = s.bestUsable e from rfl,
    show (s.streamCtx i e b).entry.mode = e.mode from rfl]
  cases e.mode with
  | first => rfl
  | preferred p => cases s.bestUsable e <;> rfl

/-- A FIRST stream retuned (R154). -/
theorem StreamView.retune_first (s : State) (i : Slot) (v : StreamView) (mode : e.mode = .first)
    (h : v.rt.nes = none → v.rt.hold = []) : ∃ p q, v.retune (s.streamCtx i e true) = { v with
      rt := { v.rt with hold := v.rt.trimmed e, candidate := none }, pool := p, raised := v.raised ++ q } := by
  rw [StreamView.retune_eq _ _ h, StreamView.freeBuffers_eq, show (s.streamCtx i e true).entry = e from rfl, mode]
  exact ⟨_, _, rfl⟩

/-- A PREFERRED stream retuned: its hold list trimmed, then the review under the new entry (R75, R154). -/
theorem StreamView.retune_preferred (s : State) (i : Slot) (v : StreamView) {p : SelectionPart} {q : Selector}
    (mode : e.mode = .preferred p) (hq : v.rt.selector = some q) (h : v.rt.nes = none → v.rt.hold = []) :
    let q' := s.reviewed e p { q with rescueRun := none }
    ∃ pool, v.retune (s.streamCtx i e true) = ({ v with
      rt := { v.rt with hold := v.rt.trimmed e, candidate := none, selector := some q' }
      pool := pool, raised := v.raised ++ switchNotice i e q.active q'.active
      switched := v.switched || decide (q.active ≠ q'.active) } : StreamView).reexamine (s.streamCtx i e true) := by
  intro q'
  rw [StreamView.retune_eq _ _ h, StreamView.freeBuffers_eq, show (s.streamCtx i e true).entry = e from rfl, mode]
  dsimp only
  rw [StreamView.evaluate_eq s i e true p _ { q with rescueRun := none, reviewPending := false }
    (by change v.rt.selector.map _ = _; rw [hq]; rfl) rfl, Pool.freedNotice_noted, List.append_nil]
  exact ⟨_, rfl⟩

/-- Copies of the active feed raise nothing while the flag is not tested (R27, R72). -/
theorem State.releaseNotices_quiet (s : State) (i : Slot) (e : Entry) (run : List Copy) (p : Pool) (r : Runtime)
    (clear : p.pressure = false) (all : ∀ x ∈ run, deliverableFrom e r x.feed) : s.releaseNotices i e p r run = [] := by
  induction run generalizing p r with
  | nil => rfl
  | cons x l ih =>
    have first := all x List.mem_cons_self
    have rest : ∀ y ∈ l, deliverableFrom e (s.releasing e r x) y.feed := by
      rw [s.releasing_deliverableFrom first]
      exact fun y hy => all y (List.mem_cons_of_mem x hy)
    have clear' : (p.freed (s.undelivered 1)).pressure = false := by simp [Pool.freed, clear]
    have quiet : p.freedNotice (s.undelivered 1) = [] := by simp [Pool.freedNotice, poolRecovered, clear]
    rw [State.releaseNotices, ih _ _ clear' rest, quiet, s.releasing_active_deliverable first, switchNotice, if_pos rfl]
    rfl

/-- The re-examination of a retuned stream after a switch (R74). -/
theorem StreamView.reexamine_untested (s : State) (i : Slot) (z : StreamView) {p : SelectionPart} {dest : Option Feed}
    {run left : List Copy} (mode : e.mode = .preferred p) (switched : z.switched = true) (active : z.rt.active = dest)
    (hr : reexamined z.rt dest run left) : ∃ pool released switched, z.reexamine (s.streamCtx i e true) = { z with
      rt := s.reexamine e z.rt run left
      pool := pool
      dataQueue := z.dataQueue ++ s.releaseFrames e z.rt run
      raised := z.raised ++ if run = [] then [] else recoveredNotice i e z.rt
      released := released, switched := switched } := by
  have all : ∀ x ∈ run, deliverableFrom e z.rt x.feed := by
    intro x hx
    rw [reexamined] at hr
    split at hr
    · rw [hr.1] at hx
      exact nomatch hx
    · obtain ⟨-, -, feeds, -⟩ := hr
      exact .inr (active.trans (feeds x hx))
  rw [StreamView.reexamine_eq s i e true p z dest run left mode switched active hr,
    State.releaseNotices_quiet s i e run _ z.rt rfl all]
  exact ⟨_, _, _, rfl⟩

end Rows

/-! ### A touched slot at its turn (R153) -/

section Turn

variable {s t : State} {i : Slot} {e o : Entry} {before : Option Entry}
  (change : StreamChange { s with live := s.live.other } t) (record : rd t.runtimes i = rd s.runtimes i)
  (latch : rd t.streamLatches i = rd s.streamLatches i)

include change

theorem StreamChange.swapped_ctx (b : Bool) : t.streamCtx i e b = s.streamCtx i e b := by
  rw [change.eq]
  rfl

theorem StreamChange.swapped_entry : t.liveEntry i = rd s.standbyBank.slots i := by
  rw [State.liveEntry, change.liveBank, State.other_liveBank]

theorem StreamChange.swapped_enabled : t.enabledEntry i = (rd s.standbyBank.slots i).filter (·.enabled) := by
  rw [State.enabledEntry, change.swapped_entry]

theorem State.swap_initialises (he : (rd s.standbyBank.slots i).filter (·.enabled) = some e)
    (ho : before.filter (·.enabled) = none ∨ ∃ o, before.filter (·.enabled) = some o ∧
      (o.tag ≠ e.tag ∨ (o.mode = .first ↔ e.mode ≠ .first))) :
    rd (t.applyClass i before).streamLatches i = false ∧
      rd (t.applyClass i before).runtimes i = { Runtime.disabled StreamCounters.zero with
        mergeState := .seeking, selector := if e.mode = .first then none else some (s.selectorAtBest e) } := by
  rw [State.applyClass_initialises (change.swapped_enabled.trans he) ho, change.swapped_ctx, StreamView.initialise,
    s.startSelector_eq]
  exact ⟨rd_wr_self _ _ _, rd_wr_self _ _ _⟩

include record latch

theorem State.swap_stops (he : (rd s.standbyBank.slots i).filter (·.enabled) = none)
    (ho : before.filter (·.enabled) ≠ none) :
    rd (t.applyClass i before).streamLatches i = rd s.streamLatches i ∧
      rd (t.applyClass i before).runtimes i = Runtime.disabled
        (if rd s.standbyBank.slots i = none then StreamCounters.zero else (rd s.runtimes i).counters) := by
  obtain ⟨o, some_⟩ := Option.ne_none_iff_exists'.1 ho
  rw [State.applyClass_stops (change.swapped_enabled.trans he) some_, change.swapped_entry, record]
  refine ⟨latch, (rd_wr_self _ _ _).trans (congrArg Runtime.disabled ?_)⟩
  cases rd s.standbyBank.slots i <;> rfl

theorem State.swap_idle (he : (rd s.standbyBank.slots i).filter (·.enabled) = none)
    (ho : before.filter (·.enabled) = none) :
    rd (t.applyClass i before).streamLatches i = rd s.streamLatches i ∧
      rd (t.applyClass i before).runtimes i = { rd s.runtimes i with
        counters := if rd s.standbyBank.slots i = none then StreamCounters.zero else (rd s.runtimes i).counters } := by
  rw [State.applyClass_idle (change.swapped_enabled.trans he) ho, change.swapped_entry, record]
  cases rd s.standbyBank.slots i with
  | none => exact ⟨latch, rd_wr_self _ _ _⟩
  | some e => exact ⟨latch, record⟩

section Retune

variable (he : (rd s.standbyBank.slots i).filter (·.enabled) = some e) (ho : before.filter (·.enabled) = some o)
  (tag : o.tag = e.tag) (empty : (rd s.runtimes i).nes = none → (rd s.runtimes i).hold = [])

include he ho tag empty

theorem State.swap_retunes_first (mode : o.mode = .first) (mode' : e.mode = .first) :
    rd (t.applyClass i before).streamLatches i = rd s.streamLatches i ∧
      rd (t.applyClass i before).runtimes i =
        { rd s.runtimes i with hold := (rd s.runtimes i).trimmed e, candidate := none } := by
  obtain ⟨p, q, retuned⟩ := StreamView.retune_first s i (t.streamView i) mode' (by rwa [← record] at empty)
  rw [State.applyClass_retunes (change.swapped_enabled.trans he) ho tag (by simp [mode, mode']), change.swapped_ctx, retuned,
    ← record]
  exact ⟨(rd_wr_self _ _ _).trans latch, rd_wr_self _ _ _⟩

variable {p : SelectionPart} {q : Selector} (mode : o.mode ≠ .first) (mode' : e.mode = .preferred p)
  (hq : (rd s.runtimes i).selector = some q)

include mode mode' hq

omit latch in
/-- The view of a retuned PREFERRED stream before its re-examination. -/
theorem State.swap_retunes : ∃ pool,
    let q' := s.reviewed e p { q with rescueRun := none }
    t.applyClass i before = t.putStream i (({ t.streamView i with
      rt := { rd s.runtimes i with hold := (rd s.runtimes i).trimmed e, candidate := none, selector := some q' }
      pool := pool, raised := t.notices.raised ++ switchNotice i e q.active q'.active
      switched := decide (q.active ≠ q'.active) } : StreamView).reexamine (s.streamCtx i e true)) := by
  obtain ⟨pool, retuned⟩ := StreamView.retune_preferred s i (t.streamView i) (q := q) mode' (by rwa [← record] at hq)
    (by rwa [← record] at empty)
  refine ⟨pool, ?_⟩
  dsimp only
  rw [State.applyClass_retunes (change.swapped_enabled.trans he) ho tag (by simp [mode, mode']), change.swapped_ctx, retuned,
    ← record]
  rfl

omit record empty hq in
theorem State.swap_retunes_latch : rd (t.applyClass i before).streamLatches i = rd s.streamLatches i := by
  rw [State.applyClass_retunes (change.swapped_enabled.trans he) ho tag (by simp [mode, mode'])]
  exact (rd_wr_self _ _ _).trans ((StreamView.retune_flags _ rfl).2.trans latch)

omit latch in
/-- The review leaves the active feed as it was: nothing is re-examined. -/
theorem State.swap_retunes_stays (stays : (s.reviewed e p { q with rescueRun := none }).active = q.active) :
    rd (t.applyClass i before).runtimes i = { rd s.runtimes i with
      hold := (rd s.runtimes i).trimmed e, candidate := none
      selector := some (s.reviewed e p { q with rescueRun := none }) } := by
  obtain ⟨pool, event⟩ := State.swap_retunes change record he ho tag empty mode mode' hq
  rw [event, StreamView.reexamine_unswitched _ _ (decide_eq_false (not_not_intro stays.symm))]
  exact rd_wr_self _ _ _

omit latch in
/-- The review makes a switch, and the hold list is re-examined. -/
theorem State.swap_retunes_switches {run left : List Copy}
    (moves : (s.reviewed e p { q with rescueRun := none }).active ≠ q.active)
    (hr : reexamined { rd s.runtimes i with
      hold := (rd s.runtimes i).trimmed e, candidate := none
      selector := some (s.reviewed e p { q with rescueRun := none }) }
      (s.reviewed e p { q with rescueRun := none }).active run left) :
    let q' := s.reviewed e p { q with rescueRun := none }
    let r' := { rd s.runtimes i with hold := (rd s.runtimes i).trimmed e, candidate := none, selector := some q' }
    rd (t.applyClass i before).runtimes i = s.reexamine e r' run left ∧
      s.releaseFrames e r' run <:+ (t.applyClass i before).dataQueue ∧
      (switchNotice i e q.active q'.active ++ if run = [] then [] else recoveredNotice i e (rd s.runtimes i)) <:+
        (t.applyClass i before).notices.raised := by
  intro q' r'
  obtain ⟨pool, event⟩ := State.swap_retunes change record he ho tag empty mode mode' hq
  obtain ⟨pool', released, switched, reexamined_⟩ := StreamView.reexamine_untested s i ({ t.streamView i with
      rt := r', pool := pool, raised := t.notices.raised ++ switchNotice i e q.active q'.active
      switched := decide (q.active ≠ q'.active) } : StreamView) mode' (decide_eq_true moves.symm) rfl hr
  rw [event, reexamined_]
  exact ⟨rd_wr_self _ _ _, List.suffix_append _ _, by rw [State.putStream, List.append_assoc]; exact List.suffix_append _ _⟩

end Retune

end Turn

/-! ### The swap as a whole (R152) -/

/-- The deferred OK of a swapped commit (R127). -/
def State.swapReply (s : State) (k : Commit) : Reply :=
  { token := k.token, seq := k.seq, code := 0x33, result := .ok, data := be32 (s.generation + 1) }

/-- The state of a swap when the banks have changed places and the change classes have run (R152, R153). -/
def State.classesApplied (s : State) (k : Commit) : State :=
  State.applyClasses { s with live := s.live.other } s.liveBank k.changes

section Swap

variable (s : State) (k : Commit)

theorem State.classesApplied_change : StreamChange { s with live := s.live.other } (s.classesApplied k) :=
  State.applyClasses_change _ _ _

theorem State.swap_quiet (h : ∀ k, s.engine ≠ .preparing k true) : s.swap = s := by
  unfold State.swap
  split
  · exact absurd ‹_› (h _)
  · rfl

variable {k} (requested : s.engine = .preparing k true)

include requested

theorem State.swap_eq : s.swap = { s.classesApplied k with
    generation := s.generation + 1
    pool := (s.classesApplied k).pool.tested.1
    notices := (s.classesApplied k).notices.raising (s.classesApplied k).pool.tested.2
    engine := .syncing k.changes none
    session := s.session.map fun ss => ss.answered k (s.swapReply k)
    delivery := (s.sending (replyFrame (s.swapReply k))).delivery } := by
  have change := s.classesApplied_change k
  unfold State.swap
  split
  · obtain ⟨rfl, -⟩ := EngineState.preparing.inj (requested.symm.trans ‹_›)
    rw [State.placeReply_eq, show State.applyClasses _ _ _ = s.classesApplied k from rfl, State.testPool, State.raiseAll]
    dsimp only
    rw [change.generation, change.session, State.sending, State.sending, change.delivery]
    rfl
  · next other => exact (other k requested).elim

/-- What a swap changes besides the records, the latches, the pool and the queues. -/
theorem State.swap_frame : s.swap = { s with
    live := s.live.other
    generation := s.generation + 1
    engine := .syncing k.changes none
    runtimes := s.swap.runtimes
    pool := s.swap.pool
    dataQueue := s.swap.dataQueue
    delivery := (s.sending (replyFrame (s.swapReply k))).delivery
    session := s.session.map fun ss => ss.answered k (s.swapReply k)
    notices := { s.notices with raised := s.swap.notices.raised }
    streamLatches := s.swap.streamLatches } := by
  rw [s.swap_eq requested]
  rw [(s.classesApplied_change k).eq]
  rfl

theorem State.swap_runtimes : s.swap.runtimes = (s.classesApplied k).runtimes := by
  rw [s.swap_eq requested]

theorem State.swap_latches : s.swap.streamLatches = (s.classesApplied k).streamLatches := by
  rw [s.swap_eq requested]

theorem State.swap_dataQueue : s.swap.dataQueue = (s.classesApplied k).dataQueue := by
  rw [s.swap_eq requested]

theorem State.swap_raised : (s.classesApplied k).notices.raised <+: s.swap.notices.raised := by
  rw [s.swap_eq requested]
  exact List.prefix_append _ _

theorem State.swap_buffers : s.swap.buffers = s.buffers := by
  have applied : (s.classesApplied k).buffers = s.buffers := State.applyClasses_buffers _ _ _
  rw [← applied, s.swap_eq requested, State.buffers, State.buffers, Pool.tested_free]
  rfl

theorem State.swap_pressure : s.swap.pool.pressure = (s.pool.pressure && decide (s.swap.pool.free < 32)) := by
  have applied : (s.classesApplied k).pool.pressure = s.pool.pressure := State.applyClasses_pressure _ _ _
  rw [s.swap_eq requested]
  dsimp only
  rw [Pool.tested_pressure, Pool.tested_free, applied]

/-- A touched slot's turn in the swap: its record and latch are those the turn leaves, and what the turn adds to the queues
stays there. -/
theorem State.swap_turn (distinct : (k.changes.map (·.slot)).Nodup) {i : Slot} (touched : ∃ x ∈ k.changes, x.slot = i) :
    ∃ t, StreamChange { s with live := s.live.other } t ∧ rd t.runtimes i = rd s.runtimes i ∧
      rd t.streamLatches i = rd s.streamLatches i ∧
      rd s.swap.runtimes i = rd (t.applyClass i (rd s.liveBank.slots i)).runtimes i ∧
      rd s.swap.streamLatches i = rd (t.applyClass i (rd s.liveBank.slots i)).streamLatches i ∧
      (t.applyClass i (rd s.liveBank.slots i)).dataQueue <+: s.swap.dataQueue ∧
      (t.applyClass i (rd s.liveBank.slots i)).notices.raised <+: s.swap.notices.raised := by
  obtain ⟨t, change, record, latch, later, record', latch'⟩ :=
    State.applyClasses_touched { s with live := s.live.other } s.liveBank k.changes distinct touched
  rw [s.swap_runtimes requested, s.swap_latches requested, s.swap_dataQueue requested]
  exact ⟨t, change, record, latch, record', latch', later.queue, later.raised.trans (s.swap_raised requested)⟩

end Swap

/-- Settles O58, by the change class of each touched slot at its turn. -/
theorem swapMakesTheTableLive : Obligations.SwapMakesTheTableLive := by
  unfold Obligations.SwapMakesTheTableLive
  refine fun s => ⟨fun idle => congrArg Host.Outcome.next (s.swap_quiet idle), fun k requested distinct => ?_⟩
  have change := s.classesApplied_change k
  refine ⟨s.swap, rfl, s.swap_frame requested, s.swap_buffers requested, s.swap_pressure requested, ?_,
    change.raised.trans (s.swap_raised requested), fun i apart => ?_, fun i touched => ?_⟩
  · rw [s.swap_dataQueue requested]
    exact change.queue
  · rw [s.swap_runtimes requested, s.swap_latches requested]
    exact State.applyClasses_untouched _ _ _ apart
  obtain ⟨t, turn, record, latch, record', latch', queue, raised⟩ := s.swap_turn requested distinct touched
  dsimp only
  rw [record', latch']
  refine ⟨fun e he ho => State.swap_initialises turn he ho, fun ho he => State.swap_stops turn record latch he ho,
    fun ho he => State.swap_idle turn record latch he ho, fun o e ho he tag mode mode' empty =>
      State.swap_retunes_first turn record latch he ho tag empty mode mode', ?_⟩
  intro o e p q ho he tag mode mode' hq empty
  refine ⟨State.swap_retunes_latch turn latch he ho tag mode mode', fun stays =>
    State.swap_retunes_stays turn record he ho tag empty mode mode' hq stays, fun run left moves hr => ?_⟩
  obtain ⟨runtime, frames, notices⟩ := State.swap_retunes_switches turn record he ho tag empty mode mode' hq moves hr
  exact ⟨runtime, frames.isInfix.trans queue.isInfix, notices.isInfix.trans raised.isInfix⟩

end Sys2Proof.Machine
end
